-- ==== Sys2Proof/Word.lean ====
section
/-! DEFINITION. The bit vectors of the spec: the input operation word, the byte, the chunk and the RESULT word. -/

namespace Sys2Proof

/-- A u8 of the byte sequence (00_scope.md R14). -/
abbrev Byte := BitVec 8

/-- The input operation word `OP[1:0]` (30_encoding.md R60). -/
abbrev OpWord := BitVec 2

/-- The 9-bit chunk as it stands in `CHK_SR` (30_encoding.md R65). -/
abbrev Chunk := BitVec 9

/-- The 40-bit `RESULT` word (30_encoding.md R71). -/
abbrev ResultWord := BitVec 40

end Sys2Proof
end

