-- ==== Sys2Proof/Config.lean ====
section
/-! DEFINITION. The build-time parameters of 00_scope.md R7: the protocol constants as definitions, the
configurable ones as a record. -/

namespace Sys2Proof

/-- `P_CLS_CHECK`: which reading of the classifier's off-sample test is built (00_scope.md R7,
40_classifier.md R116). -/
inductive ClsCheck where
  /-- the literal table: the state is tested before the off sample is counted; the normative default -/
  | pre
  /-- the set-aside alternative: the state is tested after the off sample is counted -/
  | post
deriving DecidableEq, Repr

/-- The parameters that 00_scope.md R8 asks a model to treat as configuration. They are fixed when the
block is built (10_state.md R36): no step writes them. -/
structure Params where
  /-- `P_ON_SAT` -/
  onSat : Nat
  /-- `P_OFF_ONE` -/
  offOne : Nat
  /-- `P_ZERO_STATES`, as (on count, off count) pairs -/
  zeroStates : List (Nat × Nat)
  /-- `P_MIN_SYMBOLS` -/
  minSymbols : Nat
  /-- `P_CLS_CHECK` -/
  clsCheck : ClsCheck
  /-- `P_SAMPLE_CAP`, OPEN in the spec -/
  sampleCap : Nat
deriving DecidableEq, Repr

namespace Config

/-- `P_SYNC_ZEROS` (00_scope.md R7). -/
def syncZeros : Nat := 2

/-- `P_CHUNK_BITS` (00_scope.md R7). -/
def chunkBits : Nat := 9

/-- `P_MIN_BYTES` (00_scope.md R7). -/
def minBytes : Nat := 6

/-- `P_EXT_BIT` (00_scope.md R7). -/
def extBit : Nat := 5

/-- `P_CSUM_ADD` (00_scope.md R7). -/
def csumAdd : Nat := 0x0C

/-- `P_CMD_OPENTO` (00_scope.md R7). -/
def cmdOpenTo : BitVec 4 := 0x6#4

/-- `P_CMD_SYNC` (00_scope.md R7). -/
def cmdSync : BitVec 4 := 0xC#4

/-- The sample capacity `State.reset` is built with. DESIGN CHOICE (log entry 1): the spec leaves
`P_SAMPLE_CAP` OPEN. Unsafe if a claim rests on the number; none of the model's statements does. -/
def resetSampleCap : Nat := 1024

/-- The parameters at the values of the table of 00_scope.md R7, for a given sample capacity. -/
def defaults (sampleCap : Nat) : Params where
  onSat := 4
  offOne := 2
  zeroStates := [(2, 1), (4, 1)]
  minSymbols := 24
  clsCheck := .pre
  sampleCap := sampleCap

end Config

/-- The four thresholds are at the source's values, at which alone the rules are normative
(00_scope.md R7, R8); the reading and the capacity are left free. -/
abbrev Params.atDefaults (p : Params) : Prop :=
  p.onSat = 4 ∧ p.offOne = 2 ∧ p.zeroStates = [(2, 1), (4, 1)] ∧ p.minSymbols = 24

end Sys2Proof
end

