-- ==== Sys2Proof/Syntax.lean ====
section
/-! DEFINITION. The instructions: one constructor per row of spec/opcode_table.json, and the three formats
they are written in. -/

namespace Sys2Proof

/-- One constructor per row of the opcode table. The command bytes carry the fields of 30_encoding.md
R67 that the row does not fix: `top` is `c[7:6]`, `ext` is `c[5]` (EXT), `b4` is `c[4]`. -/
inductive Instr where
  /-- `SAMPLE_OFF` (40_classifier.md R109) -/
  | sampleOff
  /-- `SAMPLE_ON` (40_classifier.md R108) -/
  | sampleOn
  /-- `END` (44_packet_control.md R164) -/
  | endPacket
  /-- the reserved word `OP = 11` (44_packet_control.md R166) -/
  | reservedOp
  /-- `RESET` (70_reset_and_hazards.md R220) -/
  | reset
  /-- the command byte of OpenTo (43_decoder.md R146) -/
  | openTo (top : BitVec 2) (ext b4 : Bool)
  /-- the command byte of Sync (43_decoder.md R147) -/
  | sync (top : BitVec 2) (ext b4 : Bool)
  /-- any other command byte; `cmd` is its nibble `c[3:0]` (43_decoder.md R148) -/
  | unknownCommand (top : BitVec 2) (ext b4 : Bool) (cmd : BitVec 4)
deriving DecidableEq, Repr

/-- What the host gives the block in one step (10_state.md R20): an input operation word on the
operation port, or the separate RESET input (70_reset_and_hazards.md R220). -/
inductive HostOp where
  | word (op : OpWord)
  | resetInput
deriving DecidableEq, Repr

/-- An encoded instruction in one of the formats of the opcode table: `input_op` and `reset_input`
come from the host, `command_byte` from the frame that DEC reads (30_encoding.md R61, R67). -/
inductive InstrWord where
  | host (h : HostOp)
  | command (c : Byte)
deriving DecidableEq, Repr

end Sys2Proof
end

