-- ==== Sys2Proof/Machine/State.lean ====
section
/-! DEFINITION. The state of the block (10_state.md), the records of its output stream, the reasons of a
refusal or a fault, and the state after RESET. -/

namespace Sys2Proof.Machine

/-- The symbols CLS emits (00_scope.md R12). `bit false` is `Zero`, `bit true` is `One` (`Zero→0, One→1`);
`brk` is `Break`, which maps to no bit. -/
inductive Symbol where
  | bit (b : Bool)
  | brk
deriving DecidableEq, Repr

/-- A decoded command (00_scope.md R14). -/
inductive Command where
  | sync
  | openTo (percent : Byte)
deriving DecidableEq, Repr

/-- The STATUS of a RESULT word (30_encoding.md R72). The codes 100 to 111 have no constructor: they are
never produced (93_implementation_defined.md I7). -/
inductive Status where
  | ok
  | rejShort
  | rejChecksum
  | rejUnknownCmd
deriving DecidableEq, Repr

/-- A record of `OUT` (30_encoding.md R69, R70, R73). -/
inductive OutRecord where
  | cand (synced : List Bool) (bytes : List Byte) (result : ResultWord)
  | eop
deriving DecidableEq, Repr

/-- The reasons of `refuse(reason)` (70_reset_and_hazards.md R230). A refusal is no stop of the model: it
sets the permanent mark and the run goes on (log entry 3). -/
inductive RefuseReason where
  /-- a SAMPLE when `PKT_N >= P_SAMPLE_CAP` (44_packet_control.md R163) -/
  | sampleBeyondCapacity
  /-- the reserved input word (44_packet_control.md R166) -/
  | reservedOp
  /-- an input operation before any RESET (70_reset_and_hazards.md R221) -/
  | notReset
deriving DecidableEq, Repr

/-- Why a step stops with a fault. The block itself raises none (60_exceptions.md R200). -/
inductive Fault where
  /-- Raised by a SAMPLE when `(CLS_ON, CLS_OFF)` is a pair the spec gives no meaning: outside the legal
  ranges (10_state.md R22 to R24), or under `POST` none of the pairs of 40_classifier.md R116.
  93_implementation_defined.md I12 and I13 call it `fault`: it cannot happen in a run from reset.
  Safe (log entry 6). -/
  | clsPairWithoutMeaning
deriving DecidableEq, Repr

/-- Why the model gives an instruction no meaning. -/
inductive Refusal where
  /-- Raised by an arm of exec whose instruction is not modelled yet. Safe. No arm answers it: every row
  of the opcode table has its meaning. -/
  | notModelled (mnemonic : String)
deriving DecidableEq, Repr

structure State where
  /-- `CLS_ON`, 3 bits (10_state.md R22) -/
  clsOn : Nat
  /-- `CLS_OFF`, 2 bits (10_state.md R23) -/
  clsOff : Nat
  /-- `CAND_LEN`, 5 bits, saturating (10_state.md R25) -/
  candLen : Nat
  /-- `SYN_ZC`, 2 bits, saturating (10_state.md R26) -/
  synZc : Nat
  /-- `SYN_LOCKED` (10_state.md R27) -/
  synLocked : Bool
  /-- `SYN_BUF`, in the order received (10_state.md R28) -/
  synBuf : List Bool
  /-- `CHK_SR` (10_state.md R29) -/
  chkSr : Chunk
  /-- `CHK_CNT`, 4 bits (10_state.md R29) -/
  chkCnt : Nat
  /-- `CHK_STOP` (10_state.md R29) -/
  chkStop : Bool
  /-- `CHK_BUF`, in the order received (10_state.md R30) -/
  chkBuf : List Byte
  /-- `PKT_N` (10_state.md R32) -/
  pktN : Nat
  /-- `OUT`, oldest record first (10_state.md R33) -/
  out : List OutRecord
  /-- the refused mark: the reasons of the refusals made, oldest first; set iff not empty
  (70_reset_and_hazards.md R230, log entry 3) -/
  refused : List RefuseReason
  /-- a RESET has been applied since power-on (70_reset_and_hazards.md R221, log entry 5) -/
  ready : Bool
  /-- the build-time parameters (00_scope.md R7, 10_state.md R36); no step writes them -/
  cfg : Params
  /-- the model's own: the host's operations the block has not taken yet, oldest first (log entry 4) -/
  input : List HostOp
deriving DecidableEq, Repr

/-- The state after RESET: `S0` of 10_state.md R40, with nothing output, nothing refused and no
operation waiting (log entries 1, 3, 4, 5 and 10). -/
def State.reset : State where
  clsOn := 0
  clsOff := 0
  candLen := 0
  synZc := 0
  synLocked := false
  synBuf := []
  chkSr := 0#9
  chkCnt := 0
  chkStop := false
  chkBuf := []
  pktN := 0
  out := []
  refused := []
  ready := true
  cfg := Config.defaults Config.resetSampleCap
  input := []

end Sys2Proof.Machine
end

