-- ==== Sys2Proof/Machine/Classifier.lean ====
section
/-! DEFINITION. CLS, the Symbol Classifier (40_classifier.md): which pairs have a meaning and `cls_step` in
both readings. -/

namespace Sys2Proof.Machine

/-- The pairs to which `POST` gives a meaning: those a run can reach, that is, an off count below
`P_OFF_ONE` through which no off sample has ended a `Zero` (40_classifier.md R116, whose eight pairs these
are at the default parameters). -/
def clsPostPair (p : Params) (on off : Nat) : Bool :=
  decide (on ≤ p.onSat) &&
    (if on = 0 then decide (off ≤ 1)
     else decide (off < p.offOne) && (List.range off).all fun j => !p.zeroStates.contains (on, j + 1))

/-- The pairs to which the spec gives a meaning. Under `PRE` these are the legal ranges
(40_classifier.md R106, R107; 10_state.md R24), under `POST` see `clsPostPair`. -/
def clsMeaningful (p : Params) (on off : Nat) : Bool :=
  match p.clsCheck with
  | .pre => decide (on ≤ p.onSat) && decide (off ≤ p.offOne)
  | .post => clsPostPair p on off

/-- An on sample: R100, then R101 (40_classifier.md). -/
def clsOnSample (p : Params) (on : Nat) : Nat × Nat × Option Symbol :=
  if on = p.onSat then (p.onSat, 0, some .brk) else (on + 1, 0, none)

/-- An off sample under `PRE`: R102, R103, R104, R105 in this order (40_classifier.md R106). -/
def clsOffSamplePre (p : Params) (on off : Nat) : Nat × Nat × Option Symbol :=
  if on = 0 then (0, 1, none)
  else if p.zeroStates.contains (on, off) then (0, 0, some (.bit false))
  else if off = p.offOne then (0, 0, some (.bit true))
  else (on, off + 1, none)

/-- An off sample under `POST`: R102, then the tests on the state after the sample is counted
(40_classifier.md R116). -/
def clsOffSamplePost (p : Params) (on off : Nat) : Nat × Nat × Option Symbol :=
  if on = 0 then (0, 1, none)
  else if p.zeroStates.contains (on, off + 1) then (0, 0, some (.bit false))
  else if off + 1 = p.offOne then (0, 0, some (.bit true))
  else (on, off + 1, none)

/-- An off sample under the reading that is built. -/
def clsOffSample (p : Params) (on off : Nat) : Nat × Nat × Option Symbol :=
  match p.clsCheck with
  | .pre => clsOffSamplePre p on off
  | .post => clsOffSamplePost p on off

/-- `cls_step` (40_classifier.md R106, R116): the next pair and at most one symbol, or none where the spec
gives the pair no meaning (log entry 6). -/
def clsStep (p : Params) (on off : Nat) (sample : Bool) : Option (Nat × Nat × Option Symbol) :=
  if clsMeaningful p on off then some (if sample then clsOnSample p on else clsOffSample p on off)
  else none

end Sys2Proof.Machine
end

