-- ==== Sys2Proof/WellFormed.lean ====
section
/-! DEFINITION. Which terms of Instr stand for an encoding. -/

namespace Sys2Proof

/-- The one check: an unknown command's nibble is neither OpenTo's nor Sync's (30_encoding.md R67,
43_decoder.md R148). Every other term is well formed, its fields being free. -/
def Instr.wf : Instr → Bool
  | .sampleOff => true
  | .sampleOn => true
  | .endPacket => true
  | .reservedOp => true
  | .reset => true
  | .openTo _ _ _ => true
  | .sync _ _ _ => true
  | .unknownCommand _ _ _ cmd => cmd != Config.cmdOpenTo && cmd != Config.cmdSync

end Sys2Proof
end

