-- ==== Sys2Proof/Decode.lean ====
section
/-! DEFINITION. Decoding of input words and command bytes, and the encoder. Both are written from the tables
of 30_encoding.md R61 and R67. -/

namespace Sys2Proof

/-- `CMD = c[3:0]` (30_encoding.md R67, 43_decoder.md R145). -/
def cmdNibble (c : Byte) : BitVec 4 := c.extractLsb' 0 4

/-- `c[4]`, ignored by DEC (30_encoding.md R67). -/
def cmdBit4 (c : Byte) : Bool := c.getLsbD 4

/-- `EXT = c[5]`, the extension flag (43_decoder.md R142). -/
def cmdExt (c : Byte) : Bool := c.getLsbD Config.extBit

/-- `c[7:6]`, ignored by DEC (30_encoding.md R67). -/
def cmdTop (c : Byte) : BitVec 2 := c.extractLsb' 6 2

/-- The command byte with the given fields (30_encoding.md R67). -/
def commandByte (top : BitVec 2) (ext b4 : Bool) (cmd : BitVec 4) : Byte :=
  top ++ BitVec.ofBool ext ++ BitVec.ofBool b4 ++ cmd

/-- The decoder of input words, total on the four values of `OP[1:0]` (30_encoding.md R61, R62). -/
def decodeOp (op : OpWord) : Instr :=
  match op.getLsbD 1, op.getLsbD 0 with
  | false, false => .sampleOff
  | false, true => .sampleOn
  | true, false => .endPacket
  | true, true => .reservedOp

/-- The command nibble map of 30_encoding.md R67, total on the 256 command bytes. -/
def decodeCommand (c : Byte) : Instr :=
  if cmdNibble c = Config.cmdOpenTo then .openTo (cmdTop c) (cmdExt c) (cmdBit4 c)
  else if cmdNibble c = Config.cmdSync then .sync (cmdTop c) (cmdExt c) (cmdBit4 c)
  else .unknownCommand (cmdTop c) (cmdExt c) (cmdBit4 c) (cmdNibble c)

/-- What the host's operation is (10_state.md R20). -/
def decodeHost : HostOp → Instr
  | .word op => decodeOp op
  | .resetInput => .reset

/-- The decoder over the three formats. It never rejects: the spec makes the decoding of every word and
every command byte total (30_encoding.md R62, R67). -/
def decode : InstrWord → Instr
  | .host h => decodeHost h
  | .command c => decodeCommand c

/-- The encoding of an instruction, in its own format. -/
def encode : Instr → InstrWord
  | .sampleOff => .host (.word 0b00#2)
  | .sampleOn => .host (.word 0b01#2)
  | .endPacket => .host (.word 0b10#2)
  | .reservedOp => .host (.word 0b11#2)
  | .reset => .host .resetInput
  | .openTo top ext b4 => .command (commandByte top ext b4 Config.cmdOpenTo)
  | .sync top ext b4 => .command (commandByte top ext b4 Config.cmdSync)
  | .unknownCommand top ext b4 cmd => .command (commandByte top ext b4 cmd)

/-- The format a table word is read in. DESIGN CHOICE (log entry 8): the spec has two fetch points, the
host's operation port and the frame's command byte, and the table gives their words the same low bits;
a word below 4 is an input word, any other 8-bit word is a command byte, and a row of no bits is the
RESET input. -/
def tableInstrWord (nbits w : Nat) : Option InstrWord :=
  if nbits = 0 then (if w = 0 then some (.host .resetInput) else none)
  else if w < 4 then some (.host (.word (BitVec.ofNat 2 w)))
  else if nbits = 8 ∧ w < 256 then some (.command (BitVec.ofNat 8 w))
  else none

/-- The instruction the decoder reads from a word of the opcode table. -/
def decodeTableWord (nbits w : Nat) : Option Instr :=
  (tableInstrWord nbits w).map decode

end Sys2Proof
end

