-- ==== Sys2Proof/Machine/Operands.lean ====
section
/-! DEFINITION. The operand forms: the sample value, the byte of a chunk, and the fields of a frame. -/

namespace Sys2Proof.Machine

/-- The byte of a chunk, `CHK_SR[8:1]`: the parity bit `CHK_SR[0]` is dropped, the first received bit is
bit 7 (42_chunker.md R132, 20_memory.md R51). -/
def chunkByte (sr : Chunk) : Byte := sr.extractLsb' 1 8

/-- The bits of a valid chunk of `v` in the order received: `d7 .. d0` and the even-parity bit
(30_encoding.md R65; the pseudo-operation `BYTE` of R74). -/
def chunkBitsOf (v : Byte) : List Bool :=
  [v.getLsbD 7, v.getLsbD 6, v.getLsbD 5, v.getLsbD 4, v.getLsbD 3, v.getLsbD 2, v.getLsbD 1, v.getLsbD 0,
    v.getLsbD 7 ^^ v.getLsbD 6 ^^ v.getLsbD 5 ^^ v.getLsbD 4 ^^ v.getLsbD 3 ^^ v.getLsbD 2 ^^ v.getLsbD 1
      ^^ v.getLsbD 0]

/-- `bytes[i]` (00_scope.md R10). DEC reads it only where the length check has passed
(43_decoder.md R141, R150). -/
def frameByte (bytes : List Byte) (i : Nat) : Byte := bytes.getD i 0#8

/-- `c = bytes[3]`, the command byte (43_decoder.md R142). -/
def frameCommand (bytes : List Byte) : Byte := frameByte bytes 3

/-- `frameLen`: 6 with the extension flag, else 5 (43_decoder.md R143). -/
def frameLen (bytes : List Byte) : Nat := if cmdExt (frameCommand bytes) then 6 else 5

/-- The frame with `c` in the place of its command byte. -/
def withFrameCommand (bytes : List Byte) (c : Byte) : List Byte := bytes.set 3 c

/-- `percent = floor(bytes[4] * 100 / 255)`, exact before it is narrowed (43_decoder.md R146, R153). -/
def percentOf (x : Byte) : Byte := BitVec.ofNat 8 (x.toNat * 100 / 255)

end Sys2Proof.Machine
end

