-- ==== Sys2Proof/Machine/Flags.lean ====
section
/-! DEFINITION. The checks and codes computed from data: parity, checksum, retention, capacity, STATUS and
the RESULT word. -/

namespace Sys2Proof.Machine

/-- The number of 1 bits of a chunk (00_scope.md R11). -/
def popcount (v : Chunk) : Nat := ((List.range Config.chunkBits).filter fun i => v.getLsbD i).length

/-- A chunk is valid iff its popcount is even (30_encoding.md R65, 42_chunker.md R132). -/
def evenParity (v : Chunk) : Bool := popcount v % 2 == 0

/-- `(bytes[0] + ... + bytes[frameLen-2] + P_CSUM_ADD) mod 256`, the sum exact before it is reduced
(43_decoder.md R144; the range excludes the checksum byte, 90_conflicts.md C5). -/
def checksumOf (bytes : List Byte) : Byte :=
  BitVec.ofNat 8 (((bytes.take (frameLen bytes - 1)).map BitVec.toNat).sum + Config.csumAdd)

/-- `bytes[frameLen-1]` is the checksum of the bytes before it (43_decoder.md R144). -/
def checksumOk (bytes : List Byte) : Bool := frameByte bytes (frameLen bytes - 1) == checksumOf bytes

/-- At least `P_MIN_BYTES` bytes are present (43_decoder.md R141). -/
def longEnough (bytes : List Byte) : Bool := decide (Config.minBytes ≤ bytes.length)

/-- The candidate is retained: `CAND_LEN > P_MIN_SYMBOLS` (44_packet_control.md R161). -/
def retained (s : State) : Bool := decide (s.cfg.minSymbols < s.candLen)

/-- One more SAMPLE is within the capacity: not `PKT_N >= P_SAMPLE_CAP` (44_packet_control.md R163). -/
def withinCapacity (s : State) : Bool := decide (s.pktN < s.cfg.sampleCap)

/-- The STATUS codes (30_encoding.md R72). -/
def statusCode : Status → BitVec 3
  | .ok => 0b000#3
  | .rejShort => 0b001#3
  | .rejChecksum => 0b010#3
  | .rejUnknownCmd => 0b011#3

/-- `KIND`: 0 `Sync`, 1 `OpenTo` (30_encoding.md R71). -/
def kindBit : Command → BitVec 1
  | .sync => 0#1
  | .openTo _ => 1#1

/-- `PCT`: the percent of an `OpenTo`, 0 for `Sync` (30_encoding.md R71). -/
def pctField : Command → Byte
  | .sync => 0#8
  | .openTo p => p

/-- A RESULT word from its fields: STATUS [39:37], KIND [36], reserved [35:32], H1 [31:24], H2 [23:16],
ADDR [15:8], PCT [7:0] (30_encoding.md R71). -/
def resultWord (st : Status) (kind : BitVec 1) (h1 h2 addr pct : Byte) : ResultWord :=
  statusCode st ++ kind ++ 0#4 ++ h1 ++ h2 ++ addr ++ pct

/-- `REJ(st)`: the status, every other bit 0 (43_decoder.md R140). -/
def rejWord (st : Status) : ResultWord := resultWord st 0#1 0#8 0#8 0#8 0#8

/-- `OK(bytes[0], bytes[1], bytes[2], cmd)` (43_decoder.md R149). -/
def okWord (bytes : List Byte) (cmd : Command) : ResultWord :=
  resultWord .ok (kindBit cmd) (frameByte bytes 0) (frameByte bytes 1) (frameByte bytes 2) (pctField cmd)

end Sys2Proof.Machine
end

