-- ==== Sys2Proof/Machine/FrameDecoder.lean ====
section
/-! DEFINITION. DEC, the Frame Decoder (43_decoder.md): a function of the byte sequence, without state
(10_state.md R31). -/

namespace Sys2Proof.Machine

/-- Steps 1 to 4 before a command's own outcome `k`: the length, then the checksum
(43_decoder.md R140, R141, R144, R151). -/
def decodeWith (k : List Byte → ResultWord) (bytes : List Byte) : ResultWord :=
  if !longEnough bytes then rejWord .rejShort
  else if !checksumOk bytes then rejWord .rejChecksum
  else k bytes

/-- OpenTo's outcome: the percent is computed from `bytes[4]` with or without the extension flag
(43_decoder.md R146). -/
def openToWord (bytes : List Byte) : ResultWord := okWord bytes (.openTo (percentOf (frameByte bytes 4)))

/-- Sync's outcome (43_decoder.md R147). -/
def syncWord (bytes : List Byte) : ResultWord := okWord bytes .sync

/-- The outcome of every other command nibble (43_decoder.md R148). -/
def unknownWord (_ : List Byte) : ResultWord := rejWord .rejUnknownCmd

/-- Step 5, the dispatch on `c[3:0]` (43_decoder.md R145). -/
def commandWord (bytes : List Byte) : ResultWord :=
  if cmdNibble (frameCommand bytes) = Config.cmdOpenTo then openToWord bytes
  else if cmdNibble (frameCommand bytes) = Config.cmdSync then syncWord bytes
  else unknownWord bytes

/-- `decode(bytes)` (43_decoder.md R140). -/
def decodeFrame (bytes : List Byte) : ResultWord := decodeWith commandWord bytes

end Sys2Proof.Machine
end

