-- ==== Sys2Proof/Machine/Chunker.lean ====
section
/-! DEFINITION. CHK, the Byte Chunker (42_chunker.md). -/

namespace Sys2Proof.Machine

/-- `((CHK_SR << 1) | b) mod 2^9` (42_chunker.md R130). -/
def shiftIn (sr : Chunk) (b : Bool) : Chunk := (sr <<< 1) ||| (BitVec.ofBool b).setWidth 9

/-- The end of a group whose nine bits are `sr`: the byte is kept (R132) or CHK stops (R133); in both cases
the shift register and the count are cleared (42_chunker.md R130). -/
def chkGroup (s : State) (sr : Chunk) : State :=
  if evenParity sr then { s with chkBuf := s.chkBuf ++ [chunkByte sr], chkSr := 0#9, chkCnt := 0 }
  else { s with chkStop := true, chkSr := 0#9, chkCnt := 0 }

/-- `chk_step(b)` (42_chunker.md R130). -/
def chkStep (s : State) (b : Bool) : State :=
  if s.chkStop then s
  else if s.chkCnt + 1 = Config.chunkBits then chkGroup s (shiftIn s.chkSr b)
  else { s with chkSr := shiftIn s.chkSr b, chkCnt := s.chkCnt + 1 }

end Sys2Proof.Machine
end

