-- ==== Sys2Proof/Machine/Synchronizer.lean ====
section
/-! DEFINITION. SYN, the Frame Synchronizer (41_synchronizer.md). -/

namespace Sys2Proof.Machine

/-- `syn_step(b)` (41_synchronizer.md R120): R124 when locked, else R121, R122 or R123. -/
def synStep (s : State) (b : Bool) : State :=
  if s.synLocked then chkStep { s with synBuf := s.synBuf ++ [b] } b
  else if !b then { s with synZc := min (s.synZc + 1) Config.syncZeros }
  else if Config.syncZeros ≤ s.synZc then { s with synLocked := true, synZc := 0 }
  else { s with synZc := 0 }

end Sys2Proof.Machine
end

