-- ==== Sys2Proof/Machine/Ops.lean ====
section
/-! DEFINITION. The shared operations of packet control (44_packet_control.md), the refusal
(70_reset_and_hazards.md R230) and the packet-initial state (10_state.md R40). The block takes no exception
and returns from none (60_exceptions.md R200), so there is no operation for either. -/

namespace Sys2Proof.Machine

/-- The state in a next outcome. -/
abbrev Result := Host.Outcome State Fault Refusal

/-- `emit(rec)`: append a record to `OUT` (00_scope.md R11, 10_state.md R33). -/
def emit (s : State) (r : OutRecord) : State := { s with out := s.out ++ [r] }

/-- `refuse(reason)`: the permanent mark is set and nothing else changes (70_reset_and_hazards.md R230,
log entry 3). -/
def refuse (s : State) (reason : RefuseReason) : Result := .next { s with refused := s.refused ++ [reason] }

/-- An input operation before any RESET is refused with `NotReset` (70_reset_and_hazards.md R221). -/
def whenReady (s : State) (k : Result) : Result := if s.ready then k else refuse s .notReset

/-- The registers that candidate close restores (44_packet_control.md R160, 10_state.md R40). -/
def clearCandidate (s : State) : State :=
  { s with candLen := 0, synZc := 0, synLocked := false, synBuf := [], chkSr := 0#9, chkCnt := 0,
           chkStop := false, chkBuf := [] }

/-- Candidate close with the byte sequence and the result of the record given: the record is appended iff
the candidate is retained, and the candidate registers are cleared (44_packet_control.md R160, R161). -/
def closeWith (s : State) (bytes : List Byte) (result : ResultWord) : State :=
  clearCandidate (if retained s then emit s (.cand s.synBuf bytes result) else s)

/-- `close_candidate()` (44_packet_control.md R160). -/
def closeCandidate (s : State) : State := closeWith s s.chkBuf (decodeFrame s.chkBuf)

/-- `pkt_init()`: every register takes its reset value, `OUT` is not touched (44_packet_control.md R165). -/
def pktInit (s : State) : State := { clearCandidate s with clsOn := 0, clsOff := 0, pktN := 0 }

/-- `symbol_in(b)` (40_classifier.md R110). -/
def symbolIn (s : State) (b : Bool) : State :=
  synStep { s with candLen := min (s.candLen + 1) (s.cfg.minSymbols + 1) } b

/-- The routing of what `cls_step` emitted (40_classifier.md R110, R111; 44_packet_control.md R162). -/
def routeSymbol (s : State) : Option Symbol → State
  | none => s
  | some (.bit b) => symbolIn s b
  | some .brk => closeCandidate s

/-- The part of `sample_in(s)` after the capacity test (44_packet_control.md R162). -/
def classifySample (s : State) (sample : Bool) : Result :=
  match clsStep s.cfg s.clsOn s.clsOff sample with
  | none => .fault .clsPairWithoutMeaning
  | some (on, off, sym) => .next (routeSymbol { s with pktN := s.pktN + 1, clsOn := on, clsOff := off } sym)

/-- `sample_in(s)` (44_packet_control.md R162, R163). -/
def sampleIn (s : State) (sample : Bool) : Result :=
  if withinCapacity s then classifySample s sample else refuse s .sampleBeyondCapacity

/-- The close of the candidate of `s` with `c` as its frame's command byte and `k` as that command's own
outcome (44_packet_control.md R160, 43_decoder.md R140; log entry 7). -/
def closeWithCommand (s : State) (c : Byte) (k : List Byte → ResultWord) : State :=
  closeWith s (withFrameCommand s.chkBuf c) (decodeWith k (withFrameCommand s.chkBuf c))

end Sys2Proof.Machine
end

