-- ==== Sys2Proof/Machine/CommandByte.lean ====
section
/-! DEFINITION. The command bytes that DEC decodes (43_decoder.md R145 to R148): the close of a candidate
whose frame has that command byte (log entry 7). -/

namespace Sys2Proof.Machine

/-- OpenTo (43_decoder.md R146). -/
def execOpenTo (top : BitVec 2) (ext b4 : Bool) (s : State) : Result :=
  .next (closeWithCommand s (commandByte top ext b4 Config.cmdOpenTo) openToWord)

/-- Sync (43_decoder.md R147). -/
def execSync (top : BitVec 2) (ext b4 : Bool) (s : State) : Result :=
  .next (closeWithCommand s (commandByte top ext b4 Config.cmdSync) syncWord)

/-- Any other command nibble (43_decoder.md R148). -/
def execUnknownCommand (top : BitVec 2) (ext b4 : Bool) (cmd : BitVec 4) (s : State) : Result :=
  .next (closeWithCommand s (commandByte top ext b4 cmd) unknownWord)

end Sys2Proof.Machine
end

