-- ==== Sys2Proof/Machine/Packet.lean ====
section
/-! DEFINITION. END, the reserved word and RESET (44_packet_control.md R164, R166; 70_reset_and_hazards.md
R220). -/

namespace Sys2Proof.Machine

/-- `END`, input word 10: close the last candidate, append `EOP`, return to `S0`
(44_packet_control.md R164). -/
def execEnd (s : State) : Result := whenReady s (.next (pktInit (emit (closeCandidate s) .eop)))

/-- The reserved input word 11: refused with `ReservedOp` (44_packet_control.md R166). -/
def execReserved (s : State) : Result := whenReady s (refuse s .reservedOp)

/-- `RESET`: the registers to `S0`, nothing appended, the refused mark kept (70_reset_and_hazards.md R220,
R230). It is what ends the power-on condition (R221). -/
def execReset (s : State) : Result := .next { pktInit s with ready := true }

end Sys2Proof.Machine
end

