-- ==== Sys2Proof/Machine/Sample.lean ====
section
/-! DEFINITION. The SAMPLE operations (40_classifier.md R108, R109). -/

namespace Sys2Proof.Machine

/-- `SAMPLE_OFF`, input word 00 (40_classifier.md R109). -/
def execSampleOff (s : State) : Result := whenReady s (sampleIn s false)

/-- `SAMPLE_ON`, input word 01 (40_classifier.md R108; 1 is on, 00_scope.md R13). -/
def execSampleOn (s : State) : Result := whenReady s (sampleIn s true)

end Sys2Proof.Machine
end

