-- ==== Sys2Proof/Machine/Dispatch.lean ====
section
/-! DEFINITION. The dispatch of the instructions, one arm per row of the opcode table. -/

namespace Sys2Proof.Machine

def exec (i : Instr) (s : State) : Host.Outcome State Fault Refusal :=
  match i with
  | .sampleOff => Sys2Proof.Machine.execSampleOff s
  | .sampleOn => Sys2Proof.Machine.execSampleOn s
  | .endPacket => Sys2Proof.Machine.execEnd s
  | .reservedOp => Sys2Proof.Machine.execReserved s
  | .reset => Sys2Proof.Machine.execReset s
  | .openTo top ext b4 => Sys2Proof.Machine.execOpenTo top ext b4 s
  | .sync top ext b4 => Sys2Proof.Machine.execSync top ext b4 s
  | .unknownCommand top ext b4 cmd => Sys2Proof.Machine.execUnknownCommand top ext b4 cmd s

end Sys2Proof.Machine
end

