-- ==== Sys2Proof/Machine/Fetch.lean ====
section
/-! DEFINITION. Where the next instruction comes from: the host's waiting operations, and the command byte
of the frame in `CHK_BUF`; and how a given instruction is put there. -/

namespace Sys2Proof.Machine

/-- The oldest waiting operation of the host and the state without it (10_state.md R20, R35;
log entry 4). -/
def fetch (s : State) : Option (HostOp × State) :=
  match s.input with
  | [] => none
  | h :: rest => some (h, { s with input := rest })

/-- The operation comes next from the host. -/
def stageHost (s : State) (h : HostOp) : State := { s with input := h :: s.input }

/-- A frame with the command byte `c`, zero house codes and address, and a valid checksum
(30_encoding.md R66). -/
def commandFrame (c : Byte) : List Byte :=
  if cmdExt c then [0#8, 0#8, 0#8, c, 0#8, c + 0x0C#8] else [0#8, 0#8, 0#8, c, c + 0x0C#8, 0#8]

/-- The command byte is the one DEC reads next: a retained, locked candidate whose frame carries it, and
the END that closes it (44_packet_control.md R160, R164; log entry 9). -/
def stageCommand (s : State) (c : Byte) : State :=
  { s with
    candLen := s.cfg.minSymbols + 1
    synZc := 0
    synLocked := true
    synBuf := (commandFrame c).flatMap chunkBitsOf
    chkSr := 0#9
    chkCnt := 0
    chkStop := false
    chkBuf := commandFrame c
    ready := true
    input := .word 0b10#2 :: s.input }

/-- An encoded instruction put where it is fetched next. -/
def stage (s : State) : InstrWord → State
  | .host h => stageHost s h
  | .command c => stageCommand s c

/-- A word of the opcode table put where it is fetched next; a word that no row has changes nothing. -/
def stageTableWord (s : State) (nbits w : Nat) : State :=
  match tableInstrWord nbits w with
  | none => s
  | some x => stage s x

end Sys2Proof.Machine
end

