-- ==== Sys2Proof/Machine/Step.lean ====
section
/-! DEFINITION. One step of the block (10_state.md R20). -/

namespace Sys2Proof.Machine

/-- One atomic step: the oldest waiting operation of the host is taken, decoded and executed
(10_state.md R20, 20_memory.md R56, R58). With none waiting the block waits and holds its state
(20_memory.md R57, 60_exceptions.md R214). -/
def step (s : State) : Host.Outcome State Fault Refusal :=
  match fetch s with
  | none => .next s
  | some (h, s') => exec (decode (.host h)) s'

/-- The word of the opcode table, stored where `step` fetches next. -/
def State.withFetchWord (s : State) (nbits w : Nat) : State := stageTableWord s nbits w

end Sys2Proof.Machine
end

