-- ==== Sys2Proof/Machine/Batch.lean ====
section
/-! DEFINITION. The source's batch description of the pipeline (40_classifier.md R114, 41_synchronizer.md
R125, 42_chunker.md R134, 44_packet_control.md R170), written without the block's registers. -/

namespace Sys2Proof.Machine

/-- The symbols emitted by running `cls_step` over a sample string from a pair (40_classifier.md R114). -/
def clsRun (p : Params) : Nat → Nat → List Bool → List Symbol
  | _, _, [] => []
  | on, off, x :: w =>
    match clsStep p on off x with
    | none => []
    | some (on', off', sym) => sym.toList ++ clsRun p on' off' w

/-- The pair the run ends in. -/
def clsEnd (p : Params) : Nat → Nat → List Bool → Option (Nat × Nat)
  | on, off, [] => some (on, off)
  | on, off, x :: w =>
    match clsStep p on off x with
    | none => none
    | some (on', off', _) => clsEnd p on' off' w

/-- A symbol before the pieces of the symbols that follow it. -/
def pushSymbol (b : Bool) : List (List Bool) → List (List Bool)
  | [] => [[b]]
  | x :: xs => (b :: x) :: xs

/-- The maximal `Break`-free pieces, empty ones included, with `Zero→0, One→1` (40_classifier.md R114). -/
def splitAtBreak : List Symbol → List (List Bool)
  | [] => [[]]
  | .brk :: r => [] :: splitAtBreak r
  | .bit b :: r => pushSymbol b (splitAtBreak r)

/-- `Cands(w)`: the retained candidate bit sequences (40_classifier.md R114, 44_packet_control.md R170). -/
def candidates (p : Params) (w : List Bool) : List (List Bool) :=
  (splitAtBreak (clsRun p 0 0 w)).filter fun x => decide (p.minSymbols < x.length)

/-- `Sync(x)`: what follows the first `0 0 1` (41_synchronizer.md R125). -/
def syncOf : List Bool → List Bool
  | [] => []
  | false :: false :: true :: rest => rest
  | _ :: rest => syncOf rest

/-- `byte(g) = sum over i in 0..8 of g[i] * 2^(7-i)` (42_chunker.md R134). -/
def groupByte (g : List Bool) : Byte :=
  BitVec.ofNat 8 ((List.range 8).map fun i => (g.getD i false).toNat * 2 ^ (7 - i)).sum

/-- The bytes of the groups up to the first of odd parity, for `k` complete groups. -/
def chunkGroups : Nat → List Bool → List Byte
  | 0, _ => []
  | k + 1, y =>
    if (y.take Config.chunkBits).count true % 2 = 0 then
      groupByte (y.take Config.chunkBits) :: chunkGroups k (y.drop Config.chunkBits)
    else []

/-- `Chunk(y)` (42_chunker.md R134). -/
def chunkOf (y : List Bool) : List Byte := chunkGroups (y.length / Config.chunkBits) y

/-- The `CAND` record of a retained candidate (44_packet_control.md R170). -/
def candRecord (x : List Bool) : OutRecord :=
  .cand (syncOf x) (chunkOf (syncOf x)) (decodeFrame (chunkOf (syncOf x)))

/-- What a packet of samples `w` followed by END appends, issued from `S0` (44_packet_control.md R170). -/
def packetRecords (p : Params) (w : List Bool) : List OutRecord :=
  (candidates p w).map candRecord ++ [.eop]

end Sys2Proof.Machine
end

