-- ==== Sys2Proof/Machine/Stream.lean ====
section
/-! DEFINITION. Streams of input operations and the notation for them (30_encoding.md R74). -/

namespace Sys2Proof.Machine

/-- One SAMPLE operation: `OP[1] = 0`, `OP[0]` the sample (30_encoding.md R61). -/
def sampleOp (sample : Bool) : HostOp := .word (BitVec.ofBool false ++ BitVec.ofBool sample)

/-- The END operation (30_encoding.md R61). -/
def endOp : HostOp := .word 0b10#2

/-- One SAMPLE operation per sample, in order. -/
def samples (w : List Bool) : List HostOp := w.map sampleOp

/-- `ZERO` = `1 1 0 0` (30_encoding.md R74). -/
def zeroShape : List Bool := [true, true, false, false]

/-- `ONE` = `1 1 1 0 0 0` (30_encoding.md R74). -/
def oneShape : List Bool := [true, true, true, false, false, false]

/-- `BIT(b)` (30_encoding.md R74). -/
def bitShape (b : Bool) : List Bool := if b then oneShape else zeroShape

/-- `BYTE(v)` (30_encoding.md R74). -/
def byteShape (v : Byte) : List Bool := (chunkBitsOf v).flatMap bitShape

/-- `LEADIN(m)` = `ZERO^m ONE` (30_encoding.md R74). -/
def leadIn (m : Nat) : List Bool := (List.replicate m zeroShape).flatten ++ oneShape

/-- `FRAME(b0, ..., bk)` (30_encoding.md R74). -/
def frameShape (bytes : List Byte) : List Bool := leadIn 8 ++ bytes.flatMap byteShape

/-- `BRK` = `1 1 1 1 1` (30_encoding.md R74). -/
def brkShape : List Bool := List.replicate 5 true

/-- `IDLE(k)` = `0^k` (30_encoding.md R74). -/
def idleShape (k : Nat) : List Bool := List.replicate k false

/-- A stream written over `0`, `1` and `E`, spaces ignored (30_encoding.md R74); none on any other
character. -/
def parseStream : List Char → Option (List HostOp)
  | [] => some []
  | ' ' :: cs => parseStream cs
  | '0' :: cs => (parseStream cs).map (sampleOp false :: ·)
  | '1' :: cs => (parseStream cs).map (sampleOp true :: ·)
  | 'E' :: cs => (parseStream cs).map (endOp :: ·)
  | _ :: _ => none

end Sys2Proof.Machine
end

