-- ==== Sys2Proof/Machine/Run.lean ====
section
/-! DEFINITION. Runs of the block over a finite sequence of host operations (70_reset_and_hazards.md
R233). -/

namespace Sys2Proof.Machine

/-- The operations executed in order, one per step (10_state.md R20, R35). -/
def runOps : List HostOp → State → Result
  | [], s => .next s
  | h :: rest, s =>
    match exec (decodeHost h) s with
    | .next s' => runOps rest s'
    | .fault r => .fault r
    | .refused r => .refused r

/-- What the host observes of a run: `OUT` together with the refused mark (70_reset_and_hazards.md R233). -/
def observation (s : State) : List OutRecord × List RefuseReason := (s.out, s.refused)

/-- A run is complete when its last operation is END and no refusal was made; `t` is the state it ends in
(70_reset_and_hazards.md R233). -/
def completeRun (ops : List HostOp) (t : State) : Bool := ops.getLast? == some endOp && t.refused.isEmpty

end Sys2Proof.Machine
end

