-- ==== Sys2Proof/Safety.lean ====
section
/-! DEFINITION. The terms claims are made in: the packet-initial state, the invariants of 10_state.md R39,
power-on, and what a step appends. -/

namespace Sys2Proof.Machine

/-- Every register is at its value in the table of 10_state.md R40: the packet-initial state `S0`. -/
abbrev State.isS0 (s : State) : Prop :=
  s.clsOn = 0 ∧ s.clsOff = 0 ∧ s.candLen = 0 ∧ s.synZc = 0 ∧ s.synLocked = false ∧ s.synBuf = [] ∧
    s.chkSr = 0#9 ∧ s.chkCnt = 0 ∧ s.chkStop = false ∧ s.chkBuf = [] ∧ s.pktN = 0

/-- The classifier pair has a meaning in the spec, so that a SAMPLE cannot fault (log entry 6). -/
abbrev State.clsLegal (s : State) : Prop := clsMeaningful s.cfg s.clsOn s.clsOff = true

/-- A SAMPLE is accepted as far as the host's duties go: after a RESET, within the capacity
(70_reset_and_hazards.md R221, R226). -/
abbrev State.accepts (s : State) : Prop := s.ready = true ∧ s.pktN < s.cfg.sampleCap

/-- The twelve pairs reachable under `PRE` (10_state.md R24). -/
def reachablePairsPre : List (Nat × Nat) :=
  [(0, 0), (0, 1), (1, 0), (1, 1), (1, 2), (2, 0), (2, 1), (3, 0), (3, 1), (3, 2), (4, 0), (4, 1)]

/-- The eight pairs reachable under `POST` (40_classifier.md R116). -/
def reachablePairsPost : List (Nat × Nat) :=
  [(0, 0), (0, 1), (1, 0), (1, 1), (2, 0), (3, 0), (3, 1), (4, 0)]

/-- The reachable pairs of the reading that is built. -/
def reachablePairs : ClsCheck → List (Nat × Nat)
  | .pre => reachablePairsPre
  | .post => reachablePairsPost

/-- The least number of samples a `Zero` or `One` takes: 4 under `PRE`, 3 under `POST`
(40_classifier.md R113 (b), R116). -/
def samplesPerSymbol : ClsCheck → Nat
  | .pre => 4
  | .post => 3

/-- Samples of the packet that the symbol in progress is sure to have used. -/
def samplesInProgress (c : ClsCheck) (on off : Nat) : Nat :=
  if on = 0 then 0 else min (samplesPerSymbol c - 1) (on + off)

/-- A bit sequence read most-significant first. -/
def bitsValue (l : List Bool) : Nat := l.foldl (fun a b => 2 * a + b.toNat) 0

/-- The registers' ranges and the invariants of 10_state.md R39 (a) to (f), with the bounds behind the
buffer capacities of R28, R30 and R32 (`density`, `bytesBound`, `capacity`). -/
structure RegInv (s : State) : Prop where
  /-- R25 -/
  candLenRange : s.candLen ≤ s.cfg.minSymbols + 1
  /-- R26 -/
  synZcRange : s.synZc ≤ Config.syncZeros
  /-- R29 -/
  chkCntRange : s.chkCnt < Config.chunkBits
  /-- R39 (a) -/
  unlocked : s.synLocked = false →
    s.synBuf = [] ∧ s.chkSr = 0#9 ∧ s.chkCnt = 0 ∧ s.chkStop = false ∧ s.chkBuf = []
  /-- R39 (b) -/
  lockedZc : s.synLocked = true → s.synZc = 0
  /-- R39 (c), the lengths -/
  chunkLength : s.chkStop = false → s.synBuf.length = Config.chunkBits * s.chkBuf.length + s.chkCnt
  /-- R39 (c), the shift register -/
  shiftRegister : s.chkStop = false →
    s.chkSr.toNat = bitsValue (s.synBuf.drop (s.synBuf.length - s.chkCnt))
  /-- R39 (d) -/
  stopped : s.chkStop = true → s.chkCnt = 0 ∧ s.chkSr = 0#9
  /-- R39 (e) -/
  candLenBound : s.candLen ≤ s.cfg.minSymbols → s.synBuf.length ≤ s.candLen
  /-- R39 (f) -/
  clsPair : (s.clsOn, s.clsOff) ∈ reachablePairs s.cfg.clsCheck
  /-- the density bound of 40_classifier.md R113 (b) and R116, for the synced bits -/
  density : samplesPerSymbol s.cfg.clsCheck * s.synBuf.length
    + samplesInProgress s.cfg.clsCheck s.clsOn s.clsOff ≤ s.pktN
  /-- a byte took nine synced bits (42_chunker.md R131) -/
  bytesBound : Config.chunkBits * s.chkBuf.length ≤ s.synBuf.length
  /-- R32: no more samples than the capacity are accepted -/
  capacity : s.pktN ≤ s.cfg.sampleCap

/-- The block's invariant: at the default thresholds, and once a RESET has been applied (before it the
registers are unspecified, 70_reset_and_hazards.md R221), `RegInv` holds. -/
structure Inv (s : State) : Prop where
  thresholds : s.cfg.atDefaults
  regs : s.ready = true → RegInv s

/-- The CHK registers are what `chk_step` leaves when it has run over `SYN_BUF` from the reset values
(42_chunker.md R134). -/
def chkAgrees (s : State) : Prop :=
  let t := s.synBuf.foldl chkStep (clearCandidate s)
  s.chkSr = t.chkSr ∧ s.chkCnt = t.chkCnt ∧ s.chkStop = t.chkStop ∧ s.chkBuf = t.chkBuf

/-- A record's fields belong together: `bytes` is `Chunk(synced)` and `result` is `decode(bytes)`
(30_encoding.md R70, 44_packet_control.md R170). -/
def recordAgrees : OutRecord → Prop
  | .cand synced bytes result => bytes = chunkOf synced ∧ result = decodeFrame bytes
  | .eop => True

/-- The state before the first RESET: the registers of `s`, whatever they are
(70_reset_and_hazards.md R221). -/
def powerOn (s : State) : State := { s with ready := false }

/-- The refusal the spec gives an instruction in a state, if any: `NotReset` for an input operation before any
RESET (70_reset_and_hazards.md R221, ahead of the others by log entry 5), `SampleBeyondCapacity`
(44_packet_control.md R163), `ReservedOp` (R166). -/
def refusalDue (i : Instr) (s : State) : Option RefuseReason :=
  match i with
  | .sampleOff | .sampleOn =>
    if s.ready then (if s.cfg.sampleCap ≤ s.pktN then some .sampleBeyondCapacity else none) else some .notReset
  | .endPacket => if s.ready then none else some .notReset
  | .reservedOp => if s.ready then some .reservedOp else some .notReset
  | .reset | .openTo _ _ _ | .sync _ _ _ | .unknownCommand _ _ _ _ => none

/-- The host's duties that keep it from being refused after RESET, `n` samples of the packet in progress
counted: at most `cap` samples in a packet (70_reset_and_hazards.md R226) and no reserved word (R228). -/
def keepsDuties (cap : Nat) : Nat → List HostOp → Bool
  | _, [] => true
  | n, h :: rest =>
    match decodeHost h with
    | .sampleOff | .sampleOn => decide (n < cap) && keepsDuties cap (n + 1) rest
    | .reservedOp => false
    | .endPacket | .reset => keepsDuties cap 0 rest
    | .openTo _ _ _ | .sync _ _ _ | .unknownCommand _ _ _ _ => keepsDuties cap n rest

/-- Two states that differ at most in the records output, the refusals made and the operations waiting. -/
def sameBlock (s t : State) : Prop := { s with out := t.out, refused := t.refused, input := t.input } = t

/-- The number of `CAND` records in a stretch of `OUT`. -/
def countCand : List OutRecord → Nat
  | [] => 0
  | .cand _ _ _ :: r => countCand r + 1
  | .eop :: r => countCand r

/-- The number of `EOP` records in a stretch of `OUT`. -/
def countEop : List OutRecord → Nat
  | [] => 0
  | .cand _ _ _ :: r => countEop r
  | .eop :: r => countEop r + 1

/-- The number of `Zero` and `One` symbols in a stretch of symbols. -/
def countBits : List Symbol → Nat
  | [] => 0
  | .bit _ :: r => countBits r + 1
  | .brk :: r => countBits r

/-- `x[j] = 1` with two zeros right before it: the sync marker ends at index `j`
(41_synchronizer.md R125). -/
abbrev markerAt (x : List Bool) (j : Nat) : Prop :=
  2 ≤ j ∧ x[j]? = some true ∧ x[j - 1]? = some false ∧ x[j - 2]? = some false

/-- The rows of the transition table of 40_classifier.md R107: the pair, then what an on sample and an off
sample give. -/
def transitionTable : List ((Nat × Nat) × (Nat × Nat × Option Symbol) × (Nat × Nat × Option Symbol)) :=
  [((0, 0), (1, 0, none), (0, 1, none)),
   ((0, 1), (1, 0, none), (0, 1, none)),
   ((0, 2), (1, 0, none), (0, 1, none)),
   ((1, 0), (2, 0, none), (1, 1, none)),
   ((1, 1), (2, 0, none), (1, 2, none)),
   ((1, 2), (2, 0, none), (0, 0, some (.bit true))),
   ((2, 0), (3, 0, none), (2, 1, none)),
   ((2, 1), (3, 0, none), (0, 0, some (.bit false))),
   ((2, 2), (3, 0, none), (0, 0, some (.bit true))),
   ((3, 0), (4, 0, none), (3, 1, none)),
   ((3, 1), (4, 0, none), (3, 2, none)),
   ((3, 2), (4, 0, none), (0, 0, some (.bit true))),
   ((4, 0), (4, 0, some .brk), (4, 1, none)),
   ((4, 1), (4, 0, some .brk), (0, 0, some (.bit false))),
   ((4, 2), (4, 0, some .brk), (0, 0, some (.bit true)))]

/-- `STATUS` of a RESULT word (30_encoding.md R71). -/
def statusField (w : ResultWord) : BitVec 3 := w.extractLsb' 37 3

end Sys2Proof.Machine
end

