-- ==== Sys2Proof/Certificates/Slice0/Obligations.lean ====
section
/-! DEFINITION. The statements for the provers. -/

open Sys2Proof Sys2Proof.Machine

/-- The four input words, written out from the table of R61, the RESET input, and command bytes written out from the
field table of R67 (OpenTo with EXT and all ignored bits set, Sync with bit 4 set, nibble 0xD with EXT) decode
to the instructions of their rows; the table-word decoder gives the same for the rows (that it reads a word
below 4 as an input word is the model's choice, log entry 8). (30_encoding.md R61, 30_encoding.md R62,
30_encoding.md R67) -/
def Obligations.TableWordsDecodeToTheirInstructions : Prop :=
  decode (.host (.word 0b00#2)) = .sampleOff ∧ decode (.host (.word 0b01#2)) = .sampleOn ∧
  decode (.host (.word 0b10#2)) = .endPacket ∧ decode (.host (.word 0b11#2)) = .reservedOp ∧
  decode (.host .resetInput) = .reset ∧
  decode (.command 0b11110110#8) = .openTo 0b11#2 true true ∧
  decode (.command 0b00011100#8) = .sync 0b00#2 false true ∧
  decode (.command 0b10101101#8) = .unknownCommand 0b10#2 true false 0xD#4 ∧
  decodeTableWord 8 0 = some .sampleOff ∧ decodeTableWord 8 1 = some .sampleOn ∧
  decodeTableWord 8 2 = some .endPacket ∧ decodeTableWord 8 3 = some .reservedOp ∧
  decodeTableWord 8 0x06 = some (.openTo 0b00#2 false false) ∧
  decodeTableWord 8 0x0C = some (.sync 0b00#2 false false)

/-- For every well-formed instruction of every row, with every value of every operand field, decode of encode is the
instruction. (30_encoding.md R60, 30_encoding.md R61, 30_encoding.md R67) -/
def Obligations.DecodeOfEncodeIsTheInstruction : Prop :=
  ∀ i : Instr, i.wf = true → decode (encode i) = i

/-- The decoder is total on the three formats: every input word, the RESET input and every command byte decodes to a
well-formed instruction, and encoding that instruction gives the same word back, so no bit is dropped and no two
words share an instruction. (30_encoding.md R62, 30_encoding.md R67) -/
def Obligations.EncodeOfDecodeIsTheWord : Prop :=
  ∀ w : InstrWord, (decode w).wf = true ∧ encode (decode w) = w

/-- If an operation waits and decodes to i, the step is exec of i at the state without that operation, and nothing
else; operations take effect in the order issued. That the host's operations wait in a field of State is the
model's choice (log entry 4). (10_state.md R20, 20_memory.md R58) -/
def Obligations.StepExecutesTheOldestWaitingOperation : Prop :=
  ∀ (s : State) (h : HostOp) (rest : List HostOp) (i : Instr),
    s.input = h :: rest → decode (.host h) = i → i.wf = true →
      step s = exec i { s with input := rest }

/-- If the host has issued no operation that is still waiting, a step changes nothing. That waiting is a step is the
model's choice (log entry 4); the spec says that the block waits and holds its state between operations.
(20_memory.md R57, 60_exceptions.md R214) -/
def Obligations.StepWithNoOperationHoldsTheState : Prop :=
  ∀ s : State, s.input = [] → step s = .next s

/-- If byte 3 of the byte sequence is c, executing the instruction that c decodes to is exactly candidate close,
whatever c is. This links the command rows of the opcode table to DEC; that they are executed as the close of
the candidate is the model's choice (log entry 7). (43_decoder.md R140, 43_decoder.md R145, 44_packet_control.md
R160) -/
def Obligations.CandidateCloseRunsTheFramesCommandByte : Prop :=
  ∀ (s : State) (c : Byte), s.chkBuf[3]? = some c →
    exec (decode (.command c)) s = .next (closeCandidate s)

/-- At a state where a command byte c has been put where DEC fetches it (a retained candidate whose frame carries c,
and the END that closes it), the next step is exec of the decoded command, followed by END's own EOP and packet
initialisation, and the record appended has status OK iff c is an OpenTo or Sync byte and REJ_UNKNOWN_CMD
otherwise. The staging is the model's (log entry 9). (43_decoder.md R145, 44_packet_control.md R164,
30_encoding.md R72) -/
def Obligations.StagedCommandByteIsExecutedByTheNextStep : Prop :=
  ∀ (s : State) (c : Byte), ∃ (u : State) (w : ResultWord),
    exec (decode (.command c)) { stage s (.command c) with input := s.input } = .next u ∧
    step (stage s (.command c)) = .next (pktInit (emit u .eop)) ∧
    u.out = s.out ++ [.cand ((commandFrame c).flatMap chunkBitsOf) (commandFrame c) w] ∧
    statusField w
      = (if c.extractLsb' 0 4 = 0x6#4 ∨ c.extractLsb' 0 4 = 0xC#4 then 0b000#3 else 0b011#3)

/-- After RESET, within the capacity and in a pair that has a meaning with CLS_ON = P_ON_SAT: cls_step emits Break
and goes to (P_ON_SAT, 0), and SAMPLE_ON answers the state in which the sample is counted, CLS_OFF is cleared
and the candidate is closed; nothing else changes. Either classifier reading. (R100) -/
def Obligations.OnSampleAtSaturationEmitsBreak : Prop :=
  ∀ s : State, s.accepts → s.clsLegal → s.clsOn = s.cfg.onSat →
    clsStep s.cfg s.clsOn s.clsOff true = some (s.cfg.onSat, 0, some .brk) ∧
    exec .sampleOn s = .next (closeCandidate { s with pktN := s.pktN + 1, clsOn := s.cfg.onSat, clsOff := 0 })

/-- After RESET, within the capacity and in a pair that has a meaning with CLS_ON < P_ON_SAT: SAMPLE_ON emits
nothing and answers the state with the sample counted, CLS_ON one higher and CLS_OFF 0; nothing else changes.
Either classifier reading. (R101) -/
def Obligations.OnSampleBelowSaturationCountsTheRun : Prop :=
  ∀ s : State, s.accepts → s.clsLegal → s.clsOn < s.cfg.onSat →
    clsStep s.cfg s.clsOn s.clsOff true = some (s.clsOn + 1, 0, none) ∧
    exec .sampleOn s = .next { s with pktN := s.pktN + 1, clsOn := s.clsOn + 1, clsOff := 0 }

/-- After RESET, within the capacity and in a pair that has a meaning with CLS_ON = 0: SAMPLE_OFF emits nothing and
answers the state with the sample counted and the pair (0, 1); nothing else changes. Either classifier reading.
(R102) -/
def Obligations.OffSampleWhileIdlePinsTheOffRun : Prop :=
  ∀ s : State, s.accepts → s.clsLegal → s.clsOn = 0 →
    clsStep s.cfg s.clsOn s.clsOff false = some (0, 1, none) ∧
    exec .sampleOff s = .next { s with pktN := s.pktN + 1, clsOn := 0, clsOff := 1 }

/-- Under PRE, after RESET, within the capacity, in a legal pair of P_ZERO_STATES with CLS_ON not 0: cls_step emits
Zero and resets the pair, and SAMPLE_OFF answers the state with the sample counted, the pair (0, 0) and bit 0
passed to symbol_in. (R103) -/
def Obligations.OffSampleInZeroStateEmitsZero : Prop :=
  ∀ s : State, s.accepts → s.cfg.clsCheck = .pre → s.clsLegal → s.clsOn ≠ 0 →
    (s.clsOn, s.clsOff) ∈ s.cfg.zeroStates →
      clsStep s.cfg s.clsOn s.clsOff false = some (0, 0, some (.bit false)) ∧
      exec .sampleOff s = .next (symbolIn { s with pktN := s.pktN + 1, clsOn := 0, clsOff := 0 } false)

/-- Under PRE, after RESET, within the capacity, in a legal pair outside P_ZERO_STATES with CLS_ON not 0 and CLS_OFF
= P_OFF_ONE: cls_step emits One and resets the pair, and SAMPLE_OFF answers the state with the sample counted,
the pair (0, 0) and bit 1 passed to symbol_in. (R104) -/
def Obligations.OffSampleAtOffOneEmitsOne : Prop :=
  ∀ s : State, s.accepts → s.cfg.clsCheck = .pre → s.clsLegal → s.clsOn ≠ 0 →
    (s.clsOn, s.clsOff) ∉ s.cfg.zeroStates → s.clsOff = s.cfg.offOne →
      clsStep s.cfg s.clsOn s.clsOff false = some (0, 0, some (.bit true)) ∧
      exec .sampleOff s = .next (symbolIn { s with pktN := s.pktN + 1, clsOn := 0, clsOff := 0 } true)

/-- Under PRE, after RESET, within the capacity, in a legal pair outside P_ZERO_STATES with CLS_ON not 0 and CLS_OFF
not P_OFF_ONE: SAMPLE_OFF emits nothing and answers the state with the sample counted and CLS_OFF one higher,
which is at most P_OFF_ONE; nothing else changes. (R105) -/
def Obligations.OffSampleInsideARunCountsTheOffRun : Prop :=
  ∀ s : State, s.accepts → s.cfg.clsCheck = .pre → s.clsLegal → s.clsOn ≠ 0 →
    (s.clsOn, s.clsOff) ∉ s.cfg.zeroStates → s.clsOff ≠ s.cfg.offOne →
      clsStep s.cfg s.clsOn s.clsOff false = some (s.clsOn, s.clsOff + 1, none) ∧
      s.clsOff + 1 ≤ s.cfg.offOne ∧
      exec .sampleOff s = .next { s with pktN := s.pktN + 1, clsOff := s.clsOff + 1 }

/-- With the set-aside reading built, after RESET, within the capacity, in a pair POST gives a meaning with CLS_ON
not 0 and n = CLS_OFF + 1: SAMPLE_OFF emits Zero if (CLS_ON, n) is a Zero state, else One if n = P_OFF_ONE, else
counts the off sample. (40_classifier.md R116) -/
def Obligations.PostOffSampleTestsAfterTheCount : Prop :=
  ∀ s : State, s.accepts → s.cfg.clsCheck = .post → s.clsLegal → s.clsOn ≠ 0 →
    ((s.clsOn, s.clsOff + 1) ∈ s.cfg.zeroStates →
      exec .sampleOff s = .next (symbolIn { s with pktN := s.pktN + 1, clsOn := 0, clsOff := 0 } false)) ∧
    ((s.clsOn, s.clsOff + 1) ∉ s.cfg.zeroStates → s.clsOff + 1 = s.cfg.offOne →
      exec .sampleOff s = .next (symbolIn { s with pktN := s.pktN + 1, clsOn := 0, clsOff := 0 } true)) ∧
    ((s.clsOn, s.clsOff + 1) ∉ s.cfg.zeroStates → s.clsOff + 1 ≠ s.cfg.offOne →
      exec .sampleOff s = .next { s with pktN := s.pktN + 1, clsOff := s.clsOff + 1 })

/-- At the default parameters (PRE), for every capacity and every row of the 15-row table, the three unreachable
pairs included, cls_step gives the row's next pair and symbol for an on sample and for an off sample; and the
table lists every pair that has a meaning. (R107) -/
def Obligations.ClassifierFollowsTheTransitionTable : Prop :=
  ∀ cap : Nat,
    (∀ row ∈ transitionTable,
      clsStep (Config.defaults cap) row.1.1 row.1.2 true = some row.2.1 ∧
      clsStep (Config.defaults cap) row.1.1 row.1.2 false = some row.2.2) ∧
    (∀ on off : Nat, clsMeaningful (Config.defaults cap) on off = true ↔
      (on, off) ∈ transitionTable.map Prod.fst)

/-- For all parameters and both readings: if cls_step emits Break the sample was on and the next pair is (P_ON_SAT,
0); if it emits Zero or One the sample was off and the next pair is (0, 0). (40_classifier.md R113) -/
def Obligations.SymbolsComeFromTheirKindOfSample : Prop :=
  ∀ (p : Params) (on off on' off' : Nat) (x : Bool) (y : Symbol),
    clsStep p on off x = some (on', off', some y) →
      (y = .brk → x = true ∧ on' = p.onSat ∧ off' = 0) ∧
      (∀ b, y = .bit b → x = false ∧ on' = 0 ∧ off' = 0)

/-- At the default thresholds, from (0,0), the number of Zero and One symbols a sample string emits, times 4 under
PRE or 3 under POST, is at most its length. (40_classifier.md R113, 40_classifier.md R116) -/
def Obligations.SymbolDensityIsBounded : Prop :=
  ∀ (p : Params) (w : List Bool), p.atDefaults →
    samplesPerSymbol p.clsCheck * countBits (clsRun p 0 0 w) ≤ w.length

/-- At the default thresholds a pair is where some sample string leads from (0,0) if and only if it is one of the
twelve pairs of R24 under PRE, of the eight of R116 under POST. (10_state.md R24, 40_classifier.md R116) -/
def Obligations.ReachablePairsAreTheListedOnes : Prop :=
  ∀ (p : Params) (pair : Nat × Nat), p.atDefaults →
    ((∃ w, clsEnd p 0 0 w = some pair) ↔ pair ∈ reachablePairs p.clsCheck)

/-- After RESET, when PKT_N is at least P_SAMPLE_CAP, SAMPLE_OFF and SAMPLE_ON set the refused mark with
SampleBeyondCapacity and change nothing else. (Here the operation is turned away; where it completes is stated
elsewhere.) (R163) -/
def Obligations.SampleBeyondCapacityIsRefused : Prop :=
  ∀ s : State, s.ready = true → s.cfg.sampleCap ≤ s.pktN →
    exec .sampleOff s = .next { s with refused := s.refused ++ [.sampleBeyondCapacity] } ∧
    exec .sampleOn s = .next { s with refused := s.refused ++ [.sampleBeyondCapacity] }

/-- From a power-on state, whatever its registers hold: SAMPLE_OFF, SAMPLE_ON and END set the refused mark with
NotReset and change nothing else, and RESET establishes S0 and ends the power-on condition. Two clauses are the
model's reading (log entry 5): that a SAMPLE with PKT_N at least P_SAMPLE_CAP is refused with NotReset too and
not with SampleBeyondCapacity (R162, R163), and that R221 goes before the words of R164 that END is never
refused. (70_reset_and_hazards.md R221, 70_reset_and_hazards.md R220, 70_reset_and_hazards.md R230,
44_packet_control.md R162, 44_packet_control.md R163, 44_packet_control.md R164) -/
def Obligations.OperationsBeforeResetAreRefused : Prop :=
  ∀ s : State,
    (∀ i ∈ [Instr.sampleOff, Instr.sampleOn, Instr.endPacket],
      exec i (powerOn s) = .next { powerOn s with refused := s.refused ++ [.notReset] }) ∧
    (∃ t, exec .reset (powerOn s) = .next t ∧ t.isS0 ∧ t.ready = true)

/-- symbol_in(b) sets CAND_LEN to the least of CAND_LEN + 1 and P_MIN_SYMBOLS + 1 and then runs syn_step(b). When
cls_step emits Zero (b = 0) or One (b = 1) for an accepted SAMPLE_OFF, that one instruction answers syn_step(b)
of the state with the sample counted, the new classifier pair and CAND_LEN so counted. For a SAMPLE_ON cls_step
emits neither, so no form is left out. Either classifier reading, any thresholds. (R110) -/
def Obligations.SymbolIsCountedAndPassedToSyn : Prop :=
  (∀ (s : State) (b : Bool),
    symbolIn s b = synStep { s with candLen := min (s.candLen + 1) (s.cfg.minSymbols + 1) } b) ∧
  (∀ (s : State) (on off : Nat) (b : Bool), s.accepts →
    clsStep s.cfg s.clsOn s.clsOff false = some (on, off, some (.bit b)) →
      exec .sampleOff s = .next (synStep { s with
        pktN := s.pktN + 1, clsOn := on, clsOff := off,
        candLen := min (s.candLen + 1) (s.cfg.minSymbols + 1) } b)) ∧
  (∀ (s : State) (on off : Nat) (b : Bool),
    clsStep s.cfg s.clsOn s.clsOff true ≠ some (on, off, some (.bit b)))

/-- Unlocked and bit 0: the zero count rises, saturating at P_SYNC_ZEROS. Unlocked, bit 1 and at least P_SYNC_ZEROS
zeros: locked, count cleared, the bit consumed. Unlocked and an isolated bit 1: the count is cleared. Locked:
the bit is appended to SYN_BUF and passed to CHK. In each case nothing else changes. (R120, R122, R123) -/
def Obligations.SynStepFollowsItsFourCases : Prop :=
  ∀ (s : State) (b : Bool),
    (s.synLocked = false → b = false → synStep s b = { s with synZc := min (s.synZc + 1) 2 }) ∧
    (s.synLocked = false → b = true → 2 ≤ s.synZc → synStep s b = { s with synLocked := true, synZc := 0 }) ∧
    (s.synLocked = false → b = true → s.synZc < 2 → synStep s b = { s with synZc := 0 }) ∧
    (s.synLocked = true → synStep s b = chkStep { s with synBuf := s.synBuf ++ [b] } b)

/-- Running syn_step over the bits x of a candidate from the reset values leaves SYN_BUF = Sync(x): if j is the
least index where a 1 has two zeros right before it, SYN_BUF is x from j + 1 on; if there is none, SYN_BUF is
empty. The batch function syncOf is that sequence. (R125) -/
def Obligations.SynOverACandidateIsTheBatchSync : Prop :=
  ∀ (s : State) (x : List Bool),
    (x.foldl synStep (clearCandidate s)).synBuf = syncOf x ∧
    (∀ j, markerAt x j → (∀ i < j, ¬ markerAt x i) → syncOf x = x.drop (j + 1)) ∧
    ((∀ j, ¬ markerAt x j) → syncOf x = [])

/-- Stopped: the bit is ignored. Fewer than nine bits after this one: it is shifted in and counted. Ninth bit and an
even number of 1 bits: bits 8 to 1 of the shift register are appended as a byte. Ninth bit and an odd number:
CHK stops, no byte. After a ninth bit the shift register and the count are 0. In each case nothing else changes.
(R130, R132) -/
def Obligations.ChkStepFollowsItsFourCases : Prop :=
  ∀ (s : State) (b : Bool),
    (s.chkStop = true → chkStep s b = s) ∧
    (s.chkStop = false → s.chkCnt + 1 ≠ 9 →
      chkStep s b = { s with chkSr := (s.chkSr <<< 1) ||| (BitVec.ofBool b).setWidth 9, chkCnt := s.chkCnt + 1 }) ∧
    (s.chkStop = false → s.chkCnt + 1 = 9 →
      popcount ((s.chkSr <<< 1) ||| (BitVec.ofBool b).setWidth 9) % 2 = 0 →
      chkStep s b = { s with
        chkBuf := s.chkBuf ++ [((s.chkSr <<< 1) ||| (BitVec.ofBool b).setWidth 9).extractLsb' 1 8]
        chkSr := 0#9, chkCnt := 0 }) ∧
    (s.chkStop = false → s.chkCnt + 1 = 9 →
      popcount ((s.chkSr <<< 1) ||| (BitVec.ofBool b).setWidth 9) % 2 = 1 →
      chkStep s b = { s with chkStop := true, chkSr := 0#9, chkCnt := 0 })

/-- With CHK not stopped and between chunks (shift register and count 0), running chk_step over d7 .. d0 and the
even-parity bit of a byte v appends exactly v to CHK_BUF and leaves everything else as it was. (20_memory.md
R51, 30_encoding.md R65, 42_chunker.md R132) -/
def Obligations.AValidChunkAppendsItsByte : Prop :=
  ∀ (s : State) (v : Byte), s.chkStop = false → s.chkSr = 0#9 → s.chkCnt = 0 →
    (chunkBitsOf v).foldl chkStep s = { s with chkBuf := s.chkBuf ++ [v] }

/-- Running chk_step over a synced sequence y from the reset values leaves CHK_BUF = Chunk(y), the bytes of the
complete groups before the first of odd parity; and CHK is stopped iff fewer bytes than complete groups came
out, else the count is len(y) mod 9. (42_chunker.md R134) -/
def Obligations.ChkOverASequenceIsTheBatchChunk : Prop :=
  ∀ (s : State) (y : List Bool),
    (y.foldl chkStep (clearCandidate s)).chkBuf = chunkOf y ∧
    ((y.foldl chkStep (clearCandidate s)).chkStop = true ↔ (chunkOf y).length < y.length / 9) ∧
    ((y.foldl chkStep (clearCandidate s)).chkStop = false →
      (y.foldl chkStep (clearCandidate s)).chkCnt = y.length % 9)

/-- For every chunk and every bit position below 9, the parity test of the chunk with that bit inverted is the
opposite. (42_chunker.md R135) -/
def Obligations.FlippingOneBitFlipsTheParity : Prop :=
  ∀ (v : Chunk) (i : Nat), i < 9 → evenParity (v ^^^ (1#9 <<< i)) = !evenParity v

/-- Whatever the bytes are, fewer than six of them give the RESULT word with STATUS REJ_SHORT and every other bit 0.
(R141) -/
def Obligations.FewerThanSixBytesAreRejectedShort : Prop :=
  ∀ bytes : List Byte, bytes.length < 6 → decodeFrame bytes = 0x2000000000#40

/-- With frameLen 6 if bit 5 of bytes[3] is set, else 5: STATUS is REJ_SHORT iff there are fewer than 6 bytes;
REJ_CHECKSUM iff there are at least 6 and bytes[frameLen-1] is not the sum of the bytes before it plus 0x0C mod
256; REJ_UNKNOWN_CMD iff both checks pass and the nibble is neither 0x6 nor 0xC; OK iff both pass and it is one
of them. (R144, R151) -/
def Obligations.StatusReportsTheFirstFailingCheck : Prop :=
  ∀ bytes : List Byte,
    let n := if (bytes.getD 3 0#8).getLsbD 5 then 6 else 5
    let sumOk := (bytes.getD (n - 1) 0#8).toNat = (((bytes.take (n - 1)).map BitVec.toNat).sum + 0x0C) % 256
    let nibble := (bytes.getD 3 0#8).extractLsb' 0 4
    let known := nibble = 0x6#4 ∨ nibble = 0xC#4
    (statusField (decodeFrame bytes) = 0b001#3 ↔ bytes.length < 6) ∧
    (statusField (decodeFrame bytes) = 0b010#3 ↔ 6 ≤ bytes.length ∧ ¬ sumOk) ∧
    (statusField (decodeFrame bytes) = 0b011#3 ↔ 6 ≤ bytes.length ∧ sumOk ∧ ¬ known) ∧
    (statusField (decodeFrame bytes) = 0b000#3 ↔ 6 ≤ bytes.length ∧ sumOk ∧ known)

/-- With at least 6 bytes, a valid checksum and nibble 0x6, with or without the extension flag: STATUS 000, KIND 1,
bits 35 to 32 zero, H1, H2 and ADDR the first three bytes, and PCT = floor(bytes[4] * 100 / 255), which is at
most 100. (R146) -/
def Obligations.OpenToResultCarriesThePercent : Prop :=
  ∀ bytes : List Byte, 6 ≤ bytes.length → checksumOk bytes = true →
    (bytes.getD 3 0#8).extractLsb' 0 4 = 0x6#4 →
      let w := decodeFrame bytes
      w.extractLsb' 37 3 = 0b000#3 ∧ w.extractLsb' 36 1 = 1#1 ∧ w.extractLsb' 32 4 = 0#4 ∧
      w.extractLsb' 24 8 = bytes.getD 0 0#8 ∧ w.extractLsb' 16 8 = bytes.getD 1 0#8 ∧
      w.extractLsb' 8 8 = bytes.getD 2 0#8 ∧
      (w.extractLsb' 0 8).toNat = (bytes.getD 4 0#8).toNat * 100 / 255 ∧ (w.extractLsb' 0 8).toNat ≤ 100

/-- With at least 6 bytes, a valid checksum and nibble 0xC, with or without the extension flag: STATUS 000, KIND 0,
bits 35 to 32 zero, H1, H2 and ADDR the first three bytes, PCT 0; the extension byte does not show. (R147) -/
def Obligations.SyncResultCarriesNoPercent : Prop :=
  ∀ bytes : List Byte, 6 ≤ bytes.length → checksumOk bytes = true →
    (bytes.getD 3 0#8).extractLsb' 0 4 = 0xC#4 →
      let w := decodeFrame bytes
      w.extractLsb' 37 3 = 0b000#3 ∧ w.extractLsb' 36 1 = 0#1 ∧ w.extractLsb' 32 4 = 0#4 ∧
      w.extractLsb' 24 8 = bytes.getD 0 0#8 ∧ w.extractLsb' 16 8 = bytes.getD 1 0#8 ∧
      w.extractLsb' 8 8 = bytes.getD 2 0#8 ∧ w.extractLsb' 0 8 = 0#8

/-- With at least 6 bytes, a valid checksum and a nibble that is neither 0x6 nor 0xC: the RESULT word has STATUS
REJ_UNKNOWN_CMD and every other bit 0. (R148) -/
def Obligations.UnknownNibbleIsRejected : Prop :=
  ∀ bytes : List Byte, 6 ≤ bytes.length → checksumOk bytes = true →
    (bytes.getD 3 0#8).extractLsb' 0 4 ≠ 0x6#4 → (bytes.getD 3 0#8).extractLsb' 0 4 ≠ 0xC#4 →
      decodeFrame bytes = 0x6000000000#40

/-- Two byte sequences of at least 6 bytes that agree on the first frameLen bytes (frameLen read from the command
byte of either) have the same result. (43_decoder.md R150) -/
def Obligations.BytesAfterTheFrameDoNotMatter : Prop :=
  ∀ a b : List Byte, 6 ≤ a.length → 6 ≤ b.length → a.take (frameLen a) = b.take (frameLen a) →
    decodeFrame a = decodeFrame b

/-- For every byte sequence: STATUS is at most 011, bits 35 to 32 are 0, and if STATUS is not OK every other bit is
0. (30_encoding.md R71, 30_encoding.md R72) -/
def Obligations.EveryResultWordIsWellFormed : Prop :=
  ∀ bytes : List Byte,
    (statusField (decodeFrame bytes)).toNat ≤ 3 ∧ (decodeFrame bytes).extractLsb' 32 4 = 0#4 ∧
    (statusField (decodeFrame bytes) ≠ 0#3 → (decodeFrame bytes).extractLsb' 0 37 = 0#37)

/-- For every value of the ignored bits and the extension flag, at a retained candidate whose bytes, with this
command byte at index 3, number at least 6 and have a valid checksum, OpenTo answers the state in which one CAND
record is appended, with STATUS OK, KIND 1, the first three bytes and floor(bytes[4]*100/255), and the candidate
registers are at their reset values; nothing else changes. That a command byte is executed as the close of the
candidate is the model's choice (log entry 7). (43_decoder.md R146, 43_decoder.md R149, 44_packet_control.md
R160, 44_packet_control.md R161) -/
def Obligations.OpenToCompletesWithItsRecord : Prop :=
  ∀ (s : State) (top : BitVec 2) (ext b4 : Bool),
    let bytes := s.chkBuf.set 3 (top ++ BitVec.ofBool ext ++ BitVec.ofBool b4 ++ 0x6#4)
    s.cfg.minSymbols < s.candLen → 6 ≤ bytes.length → checksumOk bytes = true →
      exec (.openTo top ext b4) s = .next (clearCandidate { s with out := s.out ++ [.cand s.synBuf bytes
        (0b000#3 ++ 1#1 ++ 0#4 ++ bytes.getD 0 0#8 ++ bytes.getD 1 0#8 ++ bytes.getD 2 0#8
          ++ BitVec.ofNat 8 ((bytes.getD 4 0#8).toNat * 100 / 255))] })

/-- For every value of the ignored bits and the extension flag, at a retained candidate whose bytes, with this
command byte at index 3, number at least 6 and have a valid checksum, Sync answers the state in which one CAND
record is appended, with STATUS OK, KIND 0, the first three bytes and PCT 0, and the candidate registers are at
their reset values; nothing else changes (log entry 7 for the execution of a command byte). (43_decoder.md R147,
43_decoder.md R149, 44_packet_control.md R160, 44_packet_control.md R161) -/
def Obligations.SyncCompletesWithItsRecord : Prop :=
  ∀ (s : State) (top : BitVec 2) (ext b4 : Bool),
    let bytes := s.chkBuf.set 3 (top ++ BitVec.ofBool ext ++ BitVec.ofBool b4 ++ 0xC#4)
    s.cfg.minSymbols < s.candLen → 6 ≤ bytes.length → checksumOk bytes = true →
      exec (.sync top ext b4) s = .next (clearCandidate { s with out := s.out ++ [.cand s.synBuf bytes
        (0b000#3 ++ 0#1 ++ 0#4 ++ bytes.getD 0 0#8 ++ bytes.getD 1 0#8 ++ bytes.getD 2 0#8 ++ 0#8)] })

/-- For every nibble that is neither 0x6 nor 0xC and every value of the other bits, at a retained candidate whose
bytes, with this command byte at index 3, number at least 6 and have a valid checksum, the instruction answers
the state in which one CAND record with REJ_UNKNOWN_CMD and every other result bit 0 is appended, and the
candidate registers are at their reset values; nothing else changes (log entry 7). (43_decoder.md R148,
44_packet_control.md R160, 44_packet_control.md R161) -/
def Obligations.UnknownCommandCompletesWithItsRecord : Prop :=
  ∀ (s : State) (top : BitVec 2) (ext b4 : Bool) (cmd : BitVec 4),
    let bytes := s.chkBuf.set 3 (top ++ BitVec.ofBool ext ++ BitVec.ofBool b4 ++ cmd)
    cmd ≠ 0x6#4 → cmd ≠ 0xC#4 → s.cfg.minSymbols < s.candLen → 6 ≤ bytes.length → checksumOk bytes = true →
      exec (.unknownCommand top ext b4 cmd) s
        = .next (clearCandidate { s with out := s.out ++ [.cand s.synBuf bytes 0x6000000000#40] })

/-- For the three command instructions alike, with the command byte at index 3: at an unretained candidate nothing
is appended; at a retained one with fewer than 6 bytes one record with REJ_SHORT is, and with at least 6 bytes
and a wrong checksum one with REJ_CHECKSUM; in every case the candidate registers are at their reset values and
nothing else changes (log entry 7). (43_decoder.md R141, 43_decoder.md R144, 43_decoder.md R151,
44_packet_control.md R161) -/
def Obligations.CommandsInBadFramesAreRejectedBeforeDispatch : Prop :=
  ∀ (s : State) (i : Instr) (c : Byte), i.wf = true → encode i = .command c →
    let bytes := s.chkBuf.set 3 c
    (s.candLen ≤ s.cfg.minSymbols → exec i s = .next (clearCandidate s)) ∧
    (s.cfg.minSymbols < s.candLen → bytes.length < 6 →
      exec i s = .next (clearCandidate { s with out := s.out ++ [.cand s.synBuf bytes 0x2000000000#40] })) ∧
    (s.cfg.minSymbols < s.candLen → 6 ≤ bytes.length → checksumOk bytes = false →
      exec i s = .next (clearCandidate { s with out := s.out ++ [.cand s.synBuf bytes 0x4000000000#40] }))

/-- If CAND_LEN > P_MIN_SYMBOLS the record of SYN_BUF, CHK_BUF and decode(CHK_BUF) is appended, else nothing is;
then CAND_LEN and the SYN and CHK registers take their reset values. The CLS registers, PKT_N and everything
else are unchanged. (R160, R161) -/
def Obligations.CandidateCloseFollowsItsRule : Prop :=
  ∀ s : State,
    closeCandidate s = { s with
      out := s.out ++ (if s.cfg.minSymbols < s.candLen
        then [.cand s.synBuf s.chkBuf (decodeFrame s.chkBuf)] else [])
      candLen := 0, synZc := 0, synLocked := false, synBuf := [], chkSr := 0#9, chkCnt := 0
      chkStop := false, chkBuf := [] }

/-- After RESET, END answers the state in which the record of the last candidate (if it is retained) and then EOP
are appended and every register is at its reset value; the mark, the parameters and the waiting operations are
unchanged. (R164, R165) -/
def Obligations.EndClosesAppendsEopAndReturnsToS0 : Prop :=
  ∀ s : State, s.ready = true →
    exec .endPacket s = .next { s with
      out := s.out ++ (if s.cfg.minSymbols < s.candLen
        then [.cand s.synBuf s.chkBuf (decodeFrame s.chkBuf)] else []) ++ [.eop]
      clsOn := 0, clsOff := 0, candLen := 0, synZc := 0, synLocked := false, synBuf := [], chkSr := 0#9
      chkCnt := 0, chkStop := false, chkBuf := [], pktN := 0 }

/-- From S0 after RESET, at the default thresholds in either reading, any number of off samples within the capacity
(none included) followed by END appends exactly EOP and leaves S0. (R168) -/
def Obligations.EmptyAndSilentPacketsAppendOnlyEop : Prop :=
  ∀ (s : State) (k : Nat), s.isS0 → s.ready = true → s.cfg.atDefaults → k ≤ s.cfg.sampleCap →
    runOps (samples (idleShape k) ++ [endOp]) s = .next { s with out := s.out ++ [.eop] }

/-- After RESET the reserved word sets the refused mark with ReservedOp and changes nothing else. (R166) -/
def Obligations.ReservedWordIsRefusedWithoutEffect : Prop :=
  ∀ s : State, s.ready = true →
    exec .reservedOp s = .next { s with refused := s.refused ++ [.reservedOp] }

/-- From a power-on state the reserved word sets the refused mark with NotReset and changes nothing else. That
NotReset and not ReservedOp is named is the model's choice (log entry 5). (70_reset_and_hazards.md R221,
44_packet_control.md R166) -/
def Obligations.ReservedWordBeforeResetIsRefusedNotReset : Prop :=
  ∀ s : State,
    exec .reservedOp (powerOn s) = .next { powerOn s with refused := s.refused ++ [.notReset] }

/-- In every state, also in the middle of a packet and before the first RESET, RESET answers the state with every
register at its reset value, OUT and the refused mark as they were, and the power-on condition ended. (R220) -/
def Obligations.ResetEstablishesS0AndKeepsTheOutput : Prop :=
  ∀ s : State,
    exec .reset s = .next
      { clsOn := 0, clsOff := 0, candLen := 0, synZc := 0, synLocked := false, synBuf := [], chkSr := 0#9,
        chkCnt := 0, chkStop := false, chkBuf := [], pktN := 0, out := s.out, refused := s.refused,
        ready := true, cfg := s.cfg, input := s.input }

/-- Whatever instruction is executed in whatever state, if it answers a next state then the old OUT is an initial
segment of the new one. (10_state.md R33) -/
def Obligations.NoInstructionRemovesARecord : Prop :=
  ∀ (i : Instr) (s t : State), exec i s = .next t → s.out <+: t.out

/-- Whatever instruction is executed in whatever state, if it answers a next state: the reasons of the mark are kept
in front, the build-time parameters and the waiting operations are unchanged, and a RESET once applied stays
applied. (70_reset_and_hazards.md R230, 10_state.md R36, 20_memory.md R59) -/
def Obligations.MarkParametersAndInputAreKept : Prop :=
  ∀ (i : Instr) (s t : State), exec i s = .next t →
    s.refused <+: t.refused ∧ t.cfg = s.cfg ∧ t.input = s.input ∧ (s.ready = true → t.ready = true)

/-- Whatever instruction is executed in whatever state, if it answers a next state, what it appends to OUT holds at
most one CAND record; it holds one EOP record if the instruction is END after a RESET, and none otherwise, and
that EOP is the last record appended. That END before any RESET appends no EOP follows from R221, which the
model puts ahead of R164's words that END is never refused (log entry 5, DEDUCED); that the command bytes are
executed as the close of the candidate, with no EOP of their own, is the model's choice (log entry 7).
(60_exceptions.md R207, 44_packet_control.md R160, 44_packet_control.md R162, 44_packet_control.md R164,
30_encoding.md R73, 70_reset_and_hazards.md R220, 70_reset_and_hazards.md R221) -/
def Obligations.AStepAppendsAtMostOneCandAndEopOnlyForEnd : Prop :=
  ∀ (i : Instr) (s t : State), exec i s = .next t → ∃ added, t.out = s.out ++ added ∧
    countCand added ≤ 1 ∧
    (if i = .endPacket ∧ s.ready = true then countEop added = 1 ∧ added.getLast? = some .eop
     else countEop added = 0)

/-- If two states differ at most in OUT, the refused mark and the waiting operations, an instruction that answers a
next state in one does so in the other; the next states again differ at most there, and the same records are
appended to both. (10_state.md R38, 44_packet_control.md R167) -/
def Obligations.OutputAndMarkDoNotInfluenceTheBlock : Prop :=
  ∀ (i : Instr) (s s' t : State), sameBlock s s' → exec i s = .next t →
    ∃ t', exec i s' = .next t' ∧ sameBlock t t' ∧
      ∃ added, t.out = s.out ++ added ∧ t'.out = s'.out ++ added

/-- No instruction answers the outcome .refused in any state: what the spec calls a refusal (R163, R166, R221) is by
R230 a mark and no other change, so it is a next state here (log entry 3). A fault comes only from an accepted
SAMPLE in a classifier pair the spec gives no meaning (log entry 6); the block itself raises none.
(60_exceptions.md R200, 10_state.md R24, 70_reset_and_hazards.md R230) -/
def Obligations.ExecFaultsOnlyInAMeaninglessPair : Prop :=
  ∀ (i : Instr) (s : State),
    (∀ r, exec i s ≠ .refused r) ∧
    (∀ f, exec i s = .fault f → (i = .sampleOff ∨ i = .sampleOn) ∧ s.accepts ∧ ¬ s.clsLegal)

/-- For every state with Inv (default thresholds in either reading and any capacity; and, once RESET has been
applied, the ranges of R25, R26 and R29, the invariants (a) to (f) of R39, the density bound behind R28, the
byte bound behind R30 and PKT_N at most P_SAMPLE_CAP), if a step answers a next state, that state has Inv.
(10_state.md R39, 10_state.md R28, 10_state.md R30, 10_state.md R32) -/
def Obligations.EveryStepKeepsTheInvariant : Prop :=
  ∀ s t : State, Inv s → step s = .next t → Inv t

/-- Inv holds at State.reset, whose registers are at the reset values of R40. That its parameters are the defaults
of R7 is how the model fills cfg (log entry 2), and that a RESET counts as applied there is R221 as log entry 5
reads it. (10_state.md R39, 10_state.md R40, 00_scope.md R7, 70_reset_and_hazards.md R221) -/
def Obligations.ResetStateHasTheInvariant : Prop :=
  Inv State.reset

/-- A state with Inv always answers a next state; and any finite sequence of host operations from it runs to its
end, in a state with Inv again. Operations the spec refuses (R163, R166, R221) are included: a refusal is a next
state with the mark set (log entry 3); the statement on the host's duties says when a run has none, as R230 asks
of a claim about a run. (60_exceptions.md R200, 10_state.md R39, 70_reset_and_hazards.md R230) -/
def Obligations.NoStepOfTheInvariantStops : Prop :=
  ∀ s : State, Inv s →
    (∃ t, step s = .next t) ∧ (∀ ops, ∃ t, runOps ops s = .next t ∧ Inv t)

/-- In every state with Inv after RESET, SYN_BUF holds at most floor(P_SAMPLE_CAP/4) bits under PRE and
floor(P_SAMPLE_CAP/3) under POST, and CHK_BUF at most a ninth of that in bytes. (10_state.md R28, 10_state.md
R30) -/
def Obligations.BuffersStayWithinTheirCapacity : Prop :=
  ∀ s : State, Inv s → s.ready = true →
    s.synBuf.length ≤ s.cfg.sampleCap / samplesPerSymbol s.cfg.clsCheck ∧
    s.chkBuf.length ≤ s.cfg.sampleCap / samplesPerSymbol s.cfg.clsCheck / 9

/-- For every state in which the CHK registers are what chk_step leaves over SYN_BUF and every record of OUT agrees
(bytes = Chunk(synced), result = decode(bytes)), if a step answers a next state, the same holds there. No
premise on the parameters. (30_encoding.md R70, 42_chunker.md R134, 44_packet_control.md R161) -/
def Obligations.EveryStepKeepsTheRecordsDecoded : Prop :=
  ∀ s t : State, chkAgrees s → (∀ r ∈ s.out, recordAgrees r) → step s = .next t →
    chkAgrees t ∧ (∀ r ∈ t.out, recordAgrees r)

/-- At State.reset the CHK registers, at the reset values of R40, are what chk_step leaves over the empty SYN_BUF,
and every record of OUT agrees. The clause on OUT rests on the model's choice that OUT is empty in State.reset
(log entry 10): R40 gives OUT no reset value. (10_state.md R40) -/
def Obligations.ResetStateHasItsRecordsDecoded : Prop :=
  chkAgrees State.reset ∧ (∀ r ∈ State.reset.out, recordAgrees r)

/-- From S0 after RESET, at the default thresholds in either reading, for every sample string w of length at most
P_SAMPLE_CAP: the run of its samples followed by END answers the state that differs only in OUT, to which
exactly the CAND records of the retained candidates of the batch description (split at Break, longer than
P_MIN_SYMBOLS, Sync, Chunk, decode), in order, and one EOP are appended; so it ends in S0, and what it appends
depends on w alone. (R170) -/
def Obligations.PacketAppendsTheBatchPipelinesRecords : Prop :=
  ∀ (s : State) (w : List Bool), s.isS0 → s.ready = true → s.cfg.atDefaults → w.length ≤ s.cfg.sampleCap →
    runOps (samples w ++ [endOp]) s = .next { s with out := s.out ++ packetRecords s.cfg w }

/-- Under PRE at the default thresholds, after RESET, from an idle pair (0,0) or (0,1) and with room for the
samples: the run of the samples of ZERO (1 1 0 0) or ONE (1 1 1 0 0 0) answers the state in which they are
counted, the pair is (0,0) and the one bit is passed to symbol_in; nothing else happens. (30_encoding.md R63,
30_encoding.md R74, 40_classifier.md R107) -/
def Obligations.BitShapeEmitsItsSymbol : Prop :=
  ∀ (s : State) (b : Bool), s.ready = true → s.cfg.atDefaults → s.cfg.clsCheck = .pre →
    s.clsOn = 0 → s.clsOff ≤ 1 → s.pktN + (bitShape b).length ≤ s.cfg.sampleCap →
      runOps (samples (bitShape b)) s
        = .next (symbolIn { s with pktN := s.pktN + (bitShape b).length, clsOn := 0, clsOff := 0 } b)

/-- At the default parameters (PRE), for any capacity and any byte sequence of at least 2 bytes (so that the
candidate is longer than P_MIN_SYMBOLS): the batch pipeline turns the samples of FRAME(bytes), the lead-in of
eight zeros and a one followed by a valid chunk per byte, into one CAND record whose synced bits are the chunks,
whose bytes are those bytes and whose result is decode(bytes), and the EOP. Together with the refinement of the
batch pipeline this says so of the block. (30_encoding.md R74, 44_packet_control.md R170, 20_memory.md R51) -/
def Obligations.AFrameIsDecodedToItsBytes : Prop :=
  ∀ (cap : Nat) (bytes : List Byte), 2 ≤ bytes.length →
    packetRecords (Config.defaults cap) (frameShape bytes)
      = [.cand (bytes.flatMap chunkBitsOf) bytes (decodeFrame bytes), .eop]

/-- Where a refusal is due (a SAMPLE, END or the reserved word before any RESET: NotReset; after it a SAMPLE with
PKT_N at least P_SAMPLE_CAP: SampleBeyondCapacity, and the reserved word: ReservedOp), exec answers the same
state with that reason added to the mark. Where none is due, a next state has the mark unchanged. That NotReset
goes before the other reasons and before R164 is the model's reading (log entry 5); that a refusal is a next
state is log entry 3. (70_reset_and_hazards.md R230, 70_reset_and_hazards.md R221, 44_packet_control.md R163,
44_packet_control.md R164, 44_packet_control.md R166) -/
def Obligations.RefusalsAreExactlyTheListedOnes : Prop :=
  ∀ (i : Instr) (s : State),
    (∀ r, refusalDue i s = some r → exec i s = .next { s with refused := s.refused ++ [r] }) ∧
    (refusalDue i s = none → ∀ t, exec i s = .next t → t.refused = s.refused)

/-- From a state with Inv after RESET, any finite sequence of host operations without the reserved word and with at
most P_SAMPLE_CAP samples in each packet, those of the packet in progress counted, runs to its end with the
refused mark unchanged, in a state with Inv after RESET. (70_reset_and_hazards.md R226, 70_reset_and_hazards.md
R228, 70_reset_and_hazards.md R229, 70_reset_and_hazards.md R230) -/
def Obligations.AHostKeepingItsDutiesIsNeverRefused : Prop :=
  ∀ (s : State) (ops : List HostOp), Inv s → s.ready = true → keepsDuties s.cfg.sampleCap s.pktN ops = true →
    ∃ t, runOps ops s = .next t ∧ t.refused = s.refused ∧ Inv t ∧ t.ready = true
end

