-- ==== Sys2Proof/Laws/State.lean ====
section
/-! SUPPORT. One lemma per field per state update, so that no later proof unfolds a record update. -/

namespace Sys2Proof.Machine

variable (s : State)

/-! ## emit -/

@[simp] theorem emit_clsOn (r : OutRecord) : (emit s r).clsOn = s.clsOn := rfl
@[simp] theorem emit_clsOff (r : OutRecord) : (emit s r).clsOff = s.clsOff := rfl
@[simp] theorem emit_candLen (r : OutRecord) : (emit s r).candLen = s.candLen := rfl
@[simp] theorem emit_synZc (r : OutRecord) : (emit s r).synZc = s.synZc := rfl
@[simp] theorem emit_synLocked (r : OutRecord) : (emit s r).synLocked = s.synLocked := rfl
@[simp] theorem emit_synBuf (r : OutRecord) : (emit s r).synBuf = s.synBuf := rfl
@[simp] theorem emit_chkSr (r : OutRecord) : (emit s r).chkSr = s.chkSr := rfl
@[simp] theorem emit_chkCnt (r : OutRecord) : (emit s r).chkCnt = s.chkCnt := rfl
@[simp] theorem emit_chkStop (r : OutRecord) : (emit s r).chkStop = s.chkStop := rfl
@[simp] theorem emit_chkBuf (r : OutRecord) : (emit s r).chkBuf = s.chkBuf := rfl
@[simp] theorem emit_pktN (r : OutRecord) : (emit s r).pktN = s.pktN := rfl
@[simp] theorem emit_out (r : OutRecord) : (emit s r).out = s.out ++ [r] := rfl
@[simp] theorem emit_refused (r : OutRecord) : (emit s r).refused = s.refused := rfl
@[simp] theorem emit_ready (r : OutRecord) : (emit s r).ready = s.ready := rfl
@[simp] theorem emit_cfg (r : OutRecord) : (emit s r).cfg = s.cfg := rfl
@[simp] theorem emit_input (r : OutRecord) : (emit s r).input = s.input := rfl

/-! ## clearCandidate -/

@[simp] theorem clearCandidate_clsOn : (clearCandidate s).clsOn = s.clsOn := rfl
@[simp] theorem clearCandidate_clsOff : (clearCandidate s).clsOff = s.clsOff := rfl
@[simp] theorem clearCandidate_candLen : (clearCandidate s).candLen = 0 := rfl
@[simp] theorem clearCandidate_synZc : (clearCandidate s).synZc = 0 := rfl
@[simp] theorem clearCandidate_synLocked : (clearCandidate s).synLocked = false := rfl
@[simp] theorem clearCandidate_synBuf : (clearCandidate s).synBuf = [] := rfl
@[simp] theorem clearCandidate_chkSr : (clearCandidate s).chkSr = 0#9 := rfl
@[simp] theorem clearCandidate_chkCnt : (clearCandidate s).chkCnt = 0 := rfl
@[simp] theorem clearCandidate_chkStop : (clearCandidate s).chkStop = false := rfl
@[simp] theorem clearCandidate_chkBuf : (clearCandidate s).chkBuf = [] := rfl
@[simp] theorem clearCandidate_pktN : (clearCandidate s).pktN = s.pktN := rfl
@[simp] theorem clearCandidate_out : (clearCandidate s).out = s.out := rfl
@[simp] theorem clearCandidate_refused : (clearCandidate s).refused = s.refused := rfl
@[simp] theorem clearCandidate_ready : (clearCandidate s).ready = s.ready := rfl
@[simp] theorem clearCandidate_cfg : (clearCandidate s).cfg = s.cfg := rfl
@[simp] theorem clearCandidate_input : (clearCandidate s).input = s.input := rfl

/-! ## pktInit -/

@[simp] theorem pktInit_clsOn : (pktInit s).clsOn = 0 := rfl
@[simp] theorem pktInit_clsOff : (pktInit s).clsOff = 0 := rfl
@[simp] theorem pktInit_candLen : (pktInit s).candLen = 0 := rfl
@[simp] theorem pktInit_synZc : (pktInit s).synZc = 0 := rfl
@[simp] theorem pktInit_synLocked : (pktInit s).synLocked = false := rfl
@[simp] theorem pktInit_synBuf : (pktInit s).synBuf = [] := rfl
@[simp] theorem pktInit_chkSr : (pktInit s).chkSr = 0#9 := rfl
@[simp] theorem pktInit_chkCnt : (pktInit s).chkCnt = 0 := rfl
@[simp] theorem pktInit_chkStop : (pktInit s).chkStop = false := rfl
@[simp] theorem pktInit_chkBuf : (pktInit s).chkBuf = [] := rfl
@[simp] theorem pktInit_pktN : (pktInit s).pktN = 0 := rfl
@[simp] theorem pktInit_out : (pktInit s).out = s.out := rfl
@[simp] theorem pktInit_refused : (pktInit s).refused = s.refused := rfl
@[simp] theorem pktInit_ready : (pktInit s).ready = s.ready := rfl
@[simp] theorem pktInit_cfg : (pktInit s).cfg = s.cfg := rfl
@[simp] theorem pktInit_input : (pktInit s).input = s.input := rfl

/-! ## powerOn -/

@[simp] theorem powerOn_clsOn : (powerOn s).clsOn = s.clsOn := rfl
@[simp] theorem powerOn_clsOff : (powerOn s).clsOff = s.clsOff := rfl
@[simp] theorem powerOn_candLen : (powerOn s).candLen = s.candLen := rfl
@[simp] theorem powerOn_synZc : (powerOn s).synZc = s.synZc := rfl
@[simp] theorem powerOn_synLocked : (powerOn s).synLocked = s.synLocked := rfl
@[simp] theorem powerOn_synBuf : (powerOn s).synBuf = s.synBuf := rfl
@[simp] theorem powerOn_chkSr : (powerOn s).chkSr = s.chkSr := rfl
@[simp] theorem powerOn_chkCnt : (powerOn s).chkCnt = s.chkCnt := rfl
@[simp] theorem powerOn_chkStop : (powerOn s).chkStop = s.chkStop := rfl
@[simp] theorem powerOn_chkBuf : (powerOn s).chkBuf = s.chkBuf := rfl
@[simp] theorem powerOn_pktN : (powerOn s).pktN = s.pktN := rfl
@[simp] theorem powerOn_out : (powerOn s).out = s.out := rfl
@[simp] theorem powerOn_refused : (powerOn s).refused = s.refused := rfl
@[simp] theorem powerOn_ready : (powerOn s).ready = false := rfl
@[simp] theorem powerOn_cfg : (powerOn s).cfg = s.cfg := rfl
@[simp] theorem powerOn_input : (powerOn s).input = s.input := rfl

/-! ## stageHost -/

@[simp] theorem stageHost_clsOn (h : HostOp) : (stageHost s h).clsOn = s.clsOn := rfl
@[simp] theorem stageHost_clsOff (h : HostOp) : (stageHost s h).clsOff = s.clsOff := rfl
@[simp] theorem stageHost_candLen (h : HostOp) : (stageHost s h).candLen = s.candLen := rfl
@[simp] theorem stageHost_synZc (h : HostOp) : (stageHost s h).synZc = s.synZc := rfl
@[simp] theorem stageHost_synLocked (h : HostOp) : (stageHost s h).synLocked = s.synLocked := rfl
@[simp] theorem stageHost_synBuf (h : HostOp) : (stageHost s h).synBuf = s.synBuf := rfl
@[simp] theorem stageHost_chkSr (h : HostOp) : (stageHost s h).chkSr = s.chkSr := rfl
@[simp] theorem stageHost_chkCnt (h : HostOp) : (stageHost s h).chkCnt = s.chkCnt := rfl
@[simp] theorem stageHost_chkStop (h : HostOp) : (stageHost s h).chkStop = s.chkStop := rfl
@[simp] theorem stageHost_chkBuf (h : HostOp) : (stageHost s h).chkBuf = s.chkBuf := rfl
@[simp] theorem stageHost_pktN (h : HostOp) : (stageHost s h).pktN = s.pktN := rfl
@[simp] theorem stageHost_out (h : HostOp) : (stageHost s h).out = s.out := rfl
@[simp] theorem stageHost_refused (h : HostOp) : (stageHost s h).refused = s.refused := rfl
@[simp] theorem stageHost_ready (h : HostOp) : (stageHost s h).ready = s.ready := rfl
@[simp] theorem stageHost_cfg (h : HostOp) : (stageHost s h).cfg = s.cfg := rfl
@[simp] theorem stageHost_input (h : HostOp) : (stageHost s h).input = h :: s.input := rfl

/-! ## stageCommand -/

@[simp] theorem stageCommand_clsOn (c : Byte) : (stageCommand s c).clsOn = s.clsOn := rfl
@[simp] theorem stageCommand_clsOff (c : Byte) : (stageCommand s c).clsOff = s.clsOff := rfl
@[simp] theorem stageCommand_candLen (c : Byte) : (stageCommand s c).candLen = s.cfg.minSymbols + 1 := rfl
@[simp] theorem stageCommand_synZc (c : Byte) : (stageCommand s c).synZc = 0 := rfl
@[simp] theorem stageCommand_synLocked (c : Byte) : (stageCommand s c).synLocked = true := rfl
@[simp]
theorem stageCommand_synBuf (c : Byte) : (stageCommand s c).synBuf = (commandFrame c).flatMap chunkBitsOf :=
  rfl
@[simp] theorem stageCommand_chkSr (c : Byte) : (stageCommand s c).chkSr = 0#9 := rfl
@[simp] theorem stageCommand_chkCnt (c : Byte) : (stageCommand s c).chkCnt = 0 := rfl
@[simp] theorem stageCommand_chkStop (c : Byte) : (stageCommand s c).chkStop = false := rfl
@[simp] theorem stageCommand_chkBuf (c : Byte) : (stageCommand s c).chkBuf = commandFrame c := rfl
@[simp] theorem stageCommand_pktN (c : Byte) : (stageCommand s c).pktN = s.pktN := rfl
@[simp] theorem stageCommand_out (c : Byte) : (stageCommand s c).out = s.out := rfl
@[simp] theorem stageCommand_refused (c : Byte) : (stageCommand s c).refused = s.refused := rfl
@[simp] theorem stageCommand_ready (c : Byte) : (stageCommand s c).ready = true := rfl
@[simp] theorem stageCommand_cfg (c : Byte) : (stageCommand s c).cfg = s.cfg := rfl
@[simp] theorem stageCommand_input (c : Byte) : (stageCommand s c).input = .word 0b10#2 :: s.input := rfl

/-! ## closeWith and closeCandidate -/

@[simp] theorem closeWith_clsOn (bytes : List Byte) (w : ResultWord) : (closeWith s bytes w).clsOn = s.clsOn := by
  unfold closeWith; split <;> rfl
@[simp] theorem closeCandidate_clsOn : (closeCandidate s).clsOn = s.clsOn := closeWith_clsOn s _ _
@[simp] theorem closeWith_clsOff (bytes : List Byte) (w : ResultWord) : (closeWith s bytes w).clsOff = s.clsOff := by
  unfold closeWith; split <;> rfl
@[simp] theorem closeCandidate_clsOff : (closeCandidate s).clsOff = s.clsOff := closeWith_clsOff s _ _
@[simp] theorem closeWith_candLen (bytes : List Byte) (w : ResultWord) : (closeWith s bytes w).candLen = 0 := by
  unfold closeWith; split <;> rfl
@[simp] theorem closeCandidate_candLen : (closeCandidate s).candLen = 0 := closeWith_candLen s _ _
@[simp] theorem closeWith_synZc (bytes : List Byte) (w : ResultWord) : (closeWith s bytes w).synZc = 0 := by
  unfold closeWith; split <;> rfl
@[simp] theorem closeCandidate_synZc : (closeCandidate s).synZc = 0 := closeWith_synZc s _ _
@[simp] theorem closeWith_synLocked (bytes : List Byte) (w : ResultWord) : (closeWith s bytes w).synLocked = false := by
  unfold closeWith; split <;> rfl
@[simp] theorem closeCandidate_synLocked : (closeCandidate s).synLocked = false := closeWith_synLocked s _ _
@[simp] theorem closeWith_synBuf (bytes : List Byte) (w : ResultWord) : (closeWith s bytes w).synBuf = [] := by
  unfold closeWith; split <;> rfl
@[simp] theorem closeCandidate_synBuf : (closeCandidate s).synBuf = [] := closeWith_synBuf s _ _
@[simp] theorem closeWith_chkSr (bytes : List Byte) (w : ResultWord) : (closeWith s bytes w).chkSr = 0#9 := by
  unfold closeWith; split <;> rfl
@[simp] theorem closeCandidate_chkSr : (closeCandidate s).chkSr = 0#9 := closeWith_chkSr s _ _
@[simp] theorem closeWith_chkCnt (bytes : List Byte) (w : ResultWord) : (closeWith s bytes w).chkCnt = 0 := by
  unfold closeWith; split <;> rfl
@[simp] theorem closeCandidate_chkCnt : (closeCandidate s).chkCnt = 0 := closeWith_chkCnt s _ _
@[simp] theorem closeWith_chkStop (bytes : List Byte) (w : ResultWord) : (closeWith s bytes w).chkStop = false := by
  unfold closeWith; split <;> rfl
@[simp] theorem closeCandidate_chkStop : (closeCandidate s).chkStop = false := closeWith_chkStop s _ _
@[simp] theorem closeWith_chkBuf (bytes : List Byte) (w : ResultWord) : (closeWith s bytes w).chkBuf = [] := by
  unfold closeWith; split <;> rfl
@[simp] theorem closeCandidate_chkBuf : (closeCandidate s).chkBuf = [] := closeWith_chkBuf s _ _
@[simp] theorem closeWith_pktN (bytes : List Byte) (w : ResultWord) : (closeWith s bytes w).pktN = s.pktN := by
  unfold closeWith; split <;> rfl
@[simp] theorem closeCandidate_pktN : (closeCandidate s).pktN = s.pktN := closeWith_pktN s _ _
@[simp] theorem closeWith_out (bytes : List Byte) (w : ResultWord) :
    (closeWith s bytes w).out = s.out ++ (if retained s then [.cand s.synBuf bytes w] else []) := by
  unfold closeWith; split <;> simp
@[simp] theorem closeCandidate_out :
    (closeCandidate s).out
      = s.out ++ (if retained s then [.cand s.synBuf s.chkBuf (decodeFrame s.chkBuf)] else []) :=
  closeWith_out s _ _
@[simp] theorem closeWith_refused (bytes : List Byte) (w : ResultWord) : (closeWith s bytes w).refused = s.refused := by
  unfold closeWith; split <;> rfl
@[simp] theorem closeCandidate_refused : (closeCandidate s).refused = s.refused := closeWith_refused s _ _
@[simp] theorem closeWith_ready (bytes : List Byte) (w : ResultWord) : (closeWith s bytes w).ready = s.ready := by
  unfold closeWith; split <;> rfl
@[simp] theorem closeCandidate_ready : (closeCandidate s).ready = s.ready := closeWith_ready s _ _
@[simp] theorem closeWith_cfg (bytes : List Byte) (w : ResultWord) : (closeWith s bytes w).cfg = s.cfg := by
  unfold closeWith; split <;> rfl
@[simp] theorem closeCandidate_cfg : (closeCandidate s).cfg = s.cfg := closeWith_cfg s _ _
@[simp] theorem closeWith_input (bytes : List Byte) (w : ResultWord) : (closeWith s bytes w).input = s.input := by
  unfold closeWith; split <;> rfl
@[simp] theorem closeCandidate_input : (closeCandidate s).input = s.input := closeWith_input s _ _

/-! ## chkStep: what it leaves alone -/

@[simp] theorem chkGroup_clsOn (sr : Chunk) : (chkGroup s sr).clsOn = s.clsOn := by
  unfold chkGroup; split <;> rfl
@[simp] theorem chkStep_clsOn (b : Bool) : (chkStep s b).clsOn = s.clsOn := by
  unfold chkStep; split <;> [rfl; (split <;> [exact chkGroup_clsOn s _; rfl])]
@[simp] theorem chkGroup_clsOff (sr : Chunk) : (chkGroup s sr).clsOff = s.clsOff := by
  unfold chkGroup; split <;> rfl
@[simp] theorem chkStep_clsOff (b : Bool) : (chkStep s b).clsOff = s.clsOff := by
  unfold chkStep; split <;> [rfl; (split <;> [exact chkGroup_clsOff s _; rfl])]
@[simp] theorem chkGroup_candLen (sr : Chunk) : (chkGroup s sr).candLen = s.candLen := by
  unfold chkGroup; split <;> rfl
@[simp] theorem chkStep_candLen (b : Bool) : (chkStep s b).candLen = s.candLen := by
  unfold chkStep; split <;> [rfl; (split <;> [exact chkGroup_candLen s _; rfl])]
@[simp] theorem chkGroup_synZc (sr : Chunk) : (chkGroup s sr).synZc = s.synZc := by
  unfold chkGroup; split <;> rfl
@[simp] theorem chkStep_synZc (b : Bool) : (chkStep s b).synZc = s.synZc := by
  unfold chkStep; split <;> [rfl; (split <;> [exact chkGroup_synZc s _; rfl])]
@[simp] theorem chkGroup_synLocked (sr : Chunk) : (chkGroup s sr).synLocked = s.synLocked := by
  unfold chkGroup; split <;> rfl
@[simp] theorem chkStep_synLocked (b : Bool) : (chkStep s b).synLocked = s.synLocked := by
  unfold chkStep; split <;> [rfl; (split <;> [exact chkGroup_synLocked s _; rfl])]
@[simp] theorem chkGroup_synBuf (sr : Chunk) : (chkGroup s sr).synBuf = s.synBuf := by
  unfold chkGroup; split <;> rfl
@[simp] theorem chkStep_synBuf (b : Bool) : (chkStep s b).synBuf = s.synBuf := by
  unfold chkStep; split <;> [rfl; (split <;> [exact chkGroup_synBuf s _; rfl])]
@[simp] theorem chkGroup_pktN (sr : Chunk) : (chkGroup s sr).pktN = s.pktN := by
  unfold chkGroup; split <;> rfl
@[simp] theorem chkStep_pktN (b : Bool) : (chkStep s b).pktN = s.pktN := by
  unfold chkStep; split <;> [rfl; (split <;> [exact chkGroup_pktN s _; rfl])]
@[simp] theorem chkGroup_out (sr : Chunk) : (chkGroup s sr).out = s.out := by
  unfold chkGroup; split <;> rfl
@[simp] theorem chkStep_out (b : Bool) : (chkStep s b).out = s.out := by
  unfold chkStep; split <;> [rfl; (split <;> [exact chkGroup_out s _; rfl])]
@[simp] theorem chkGroup_refused (sr : Chunk) : (chkGroup s sr).refused = s.refused := by
  unfold chkGroup; split <;> rfl
@[simp] theorem chkStep_refused (b : Bool) : (chkStep s b).refused = s.refused := by
  unfold chkStep; split <;> [rfl; (split <;> [exact chkGroup_refused s _; rfl])]
@[simp] theorem chkGroup_ready (sr : Chunk) : (chkGroup s sr).ready = s.ready := by
  unfold chkGroup; split <;> rfl
@[simp] theorem chkStep_ready (b : Bool) : (chkStep s b).ready = s.ready := by
  unfold chkStep; split <;> [rfl; (split <;> [exact chkGroup_ready s _; rfl])]
@[simp] theorem chkGroup_cfg (sr : Chunk) : (chkGroup s sr).cfg = s.cfg := by
  unfold chkGroup; split <;> rfl
@[simp] theorem chkStep_cfg (b : Bool) : (chkStep s b).cfg = s.cfg := by
  unfold chkStep; split <;> [rfl; (split <;> [exact chkGroup_cfg s _; rfl])]
@[simp] theorem chkGroup_input (sr : Chunk) : (chkGroup s sr).input = s.input := by
  unfold chkGroup; split <;> rfl
@[simp] theorem chkStep_input (b : Bool) : (chkStep s b).input = s.input := by
  unfold chkStep; split <;> [rfl; (split <;> [exact chkGroup_input s _; rfl])]

/-! ## synStep and symbolIn: what they leave alone -/

@[simp] theorem synStep_clsOn (b : Bool) : (synStep s b).clsOn = s.clsOn := by
  unfold synStep; split_ifs <;> simp
@[simp] theorem symbolIn_clsOn (b : Bool) : (symbolIn s b).clsOn = s.clsOn := by
  simp [symbolIn]
@[simp] theorem synStep_clsOff (b : Bool) : (synStep s b).clsOff = s.clsOff := by
  unfold synStep; split_ifs <;> simp
@[simp] theorem symbolIn_clsOff (b : Bool) : (symbolIn s b).clsOff = s.clsOff := by
  simp [symbolIn]
@[simp] theorem synStep_candLen (b : Bool) : (synStep s b).candLen = s.candLen := by
  unfold synStep; split_ifs <;> simp
@[simp] theorem symbolIn_candLen (b : Bool) :
    (symbolIn s b).candLen = min (s.candLen + 1) (s.cfg.minSymbols + 1) := by
  simp [symbolIn]
@[simp] theorem synStep_pktN (b : Bool) : (synStep s b).pktN = s.pktN := by
  unfold synStep; split_ifs <;> simp
@[simp] theorem symbolIn_pktN (b : Bool) : (symbolIn s b).pktN = s.pktN := by
  simp [symbolIn]
@[simp] theorem synStep_out (b : Bool) : (synStep s b).out = s.out := by
  unfold synStep; split_ifs <;> simp
@[simp] theorem symbolIn_out (b : Bool) : (symbolIn s b).out = s.out := by
  simp [symbolIn]
@[simp] theorem synStep_refused (b : Bool) : (synStep s b).refused = s.refused := by
  unfold synStep; split_ifs <;> simp
@[simp] theorem symbolIn_refused (b : Bool) : (symbolIn s b).refused = s.refused := by
  simp [symbolIn]
@[simp] theorem synStep_ready (b : Bool) : (synStep s b).ready = s.ready := by
  unfold synStep; split_ifs <;> simp
@[simp] theorem symbolIn_ready (b : Bool) : (symbolIn s b).ready = s.ready := by
  simp [symbolIn]
@[simp] theorem synStep_cfg (b : Bool) : (synStep s b).cfg = s.cfg := by
  unfold synStep; split_ifs <;> simp
@[simp] theorem symbolIn_cfg (b : Bool) : (symbolIn s b).cfg = s.cfg := by
  simp [symbolIn]
@[simp] theorem synStep_input (b : Bool) : (synStep s b).input = s.input := by
  unfold synStep; split_ifs <;> simp
@[simp] theorem symbolIn_input (b : Bool) : (symbolIn s b).input = s.input := by
  simp [symbolIn]

/-! ## routeSymbol: what it leaves alone -/

@[simp] theorem routeSymbol_clsOn (y : Option Symbol) : (routeSymbol s y).clsOn = s.clsOn := by
  rcases y with _ | _ | _ <;> simp [routeSymbol]
@[simp] theorem routeSymbol_clsOff (y : Option Symbol) : (routeSymbol s y).clsOff = s.clsOff := by
  rcases y with _ | _ | _ <;> simp [routeSymbol]
@[simp] theorem routeSymbol_pktN (y : Option Symbol) : (routeSymbol s y).pktN = s.pktN := by
  rcases y with _ | _ | _ <;> simp [routeSymbol]
@[simp] theorem routeSymbol_refused (y : Option Symbol) : (routeSymbol s y).refused = s.refused := by
  rcases y with _ | _ | _ <;> simp [routeSymbol]
@[simp] theorem routeSymbol_ready (y : Option Symbol) : (routeSymbol s y).ready = s.ready := by
  rcases y with _ | _ | _ <;> simp [routeSymbol]
@[simp] theorem routeSymbol_cfg (y : Option Symbol) : (routeSymbol s y).cfg = s.cfg := by
  rcases y with _ | _ | _ <;> simp [routeSymbol]
@[simp] theorem routeSymbol_input (y : Option Symbol) : (routeSymbol s y).input = s.input := by
  rcases y with _ | _ | _ <;> simp [routeSymbol]

end Sys2Proof.Machine
end

