-- ==== Sys2Proof/Laws/Ops.lean ====
section
/-! SUPPORT. One lemma per shared operation that says once everything it can do; proofs cite these instead of
unfolding the operation. -/

namespace Sys2Proof.Machine

/-! ## The checks, as propositions -/

theorem longEnough_eq_true (bytes : List Byte) : longEnough bytes = true ↔ 6 ≤ bytes.length :=
  decide_eq_true_iff

theorem longEnough_eq_false (bytes : List Byte) : longEnough bytes = false ↔ bytes.length < 6 :=
  decide_eq_false_iff_not.trans Nat.not_le

theorem retained_eq_true (s : State) : retained s = true ↔ s.cfg.minSymbols < s.candLen :=
  decide_eq_true_iff

theorem retained_eq_false (s : State) : retained s = false ↔ s.candLen ≤ s.cfg.minSymbols :=
  decide_eq_false_iff_not.trans Nat.not_lt

theorem withinCapacity_eq_true (s : State) : withinCapacity s = true ↔ s.pktN < s.cfg.sampleCap :=
  decide_eq_true_iff

theorem withinCapacity_eq_false (s : State) : withinCapacity s = false ↔ s.cfg.sampleCap ≤ s.pktN :=
  decide_eq_false_iff_not.trans Nat.not_lt

theorem evenParity_eq_true (v : Chunk) : evenParity v = true ↔ popcount v % 2 = 0 :=
  beq_iff_eq

theorem checksumOk_eq_true (bytes : List Byte) :
    checksumOk bytes = true ↔ frameByte bytes (frameLen bytes - 1) = checksumOf bytes :=
  beq_iff_eq

/-- Under `PRE` the meaningful pairs are the legal ranges (40_classifier.md R106). -/
theorem clsMeaningful_pre {p : Params} (h : p.clsCheck = .pre) (on off : Nat) :
    clsMeaningful p on off = true ↔ on ≤ p.onSat ∧ off ≤ p.offOne := by
  unfold clsMeaningful
  rw [h]
  exact Bool.and_eq_true_iff.trans (and_congr decide_eq_true_iff decide_eq_true_iff)

/-! ## The classifier -/

/-- An answer of `cls_step` is the on case or the off case of a meaningful pair. -/
theorem clsStep_eq_some {p : Params} {on off : Nat} {x : Bool} {r : Nat × Nat × Option Symbol}
    (h : clsStep p on off x = some r) :
    clsMeaningful p on off = true ∧
      ((x = true ∧ r = clsOnSample p on) ∨ (x = false ∧ r = clsOffSample p on off)) := by
  unfold clsStep at h
  split at h
  · cases x <;> simp_all
  · cases h

/-- What an on sample can do (40_classifier.md R100, R101). -/
theorem clsOnSample_cases (p : Params) (on : Nat) :
    (on = p.onSat ∧ clsOnSample p on = (p.onSat, 0, some .brk)) ∨
      (on ≠ p.onSat ∧ clsOnSample p on = (on + 1, 0, none)) := by
  unfold clsOnSample; split <;> simp_all

/-- What an off sample can do in either reading (40_classifier.md R102 to R105, R116). -/
theorem clsOffSample_cases (p : Params) (on off : Nat) :
    (on = 0 ∧ clsOffSample p on off = (0, 1, none)) ∨
      (on ≠ 0 ∧ ((∃ b, clsOffSample p on off = (0, 0, some (.bit b))) ∨
        clsOffSample p on off = (on, off + 1, none))) := by
  unfold clsOffSample clsOffSamplePre clsOffSamplePost
  split <;> split_ifs <;> simp_all

/-! ## CHK and SYN -/

/-- What a completed group does (42_chunker.md R132, R133). -/
theorem chkGroup_cases (s : State) (sr : Chunk) :
    (evenParity sr = true ∧
        chkGroup s sr = { s with chkBuf := s.chkBuf ++ [chunkByte sr], chkSr := 0#9, chkCnt := 0 }) ∨
      (evenParity sr = false ∧ chkGroup s sr = { s with chkStop := true, chkSr := 0#9, chkCnt := 0 }) := by
  unfold chkGroup; split <;> simp_all

/-- What `chk_step` can do (42_chunker.md R130). -/
theorem chkStep_cases (s : State) (b : Bool) :
    (s.chkStop = true ∧ chkStep s b = s) ∨
      (s.chkStop = false ∧ s.chkCnt + 1 = Config.chunkBits ∧
        chkStep s b = chkGroup s (shiftIn s.chkSr b)) ∨
      (s.chkStop = false ∧ s.chkCnt + 1 ≠ Config.chunkBits ∧
        chkStep s b = { s with chkSr := shiftIn s.chkSr b, chkCnt := s.chkCnt + 1 }) := by
  unfold chkStep
  split_ifs <;> simp_all

/-- What `syn_step` can do (41_synchronizer.md R120). -/
theorem synStep_cases (s : State) (b : Bool) :
    (s.synLocked = true ∧ synStep s b = chkStep { s with synBuf := s.synBuf ++ [b] } b) ∨
      (s.synLocked = false ∧ b = false ∧
        synStep s b = { s with synZc := min (s.synZc + 1) Config.syncZeros }) ∨
      (s.synLocked = false ∧ b = true ∧ Config.syncZeros ≤ s.synZc ∧
        synStep s b = { s with synLocked := true, synZc := 0 }) ∨
      (s.synLocked = false ∧ b = true ∧ s.synZc < Config.syncZeros ∧
        synStep s b = { s with synZc := 0 }) := by
  unfold synStep
  split_ifs <;> simp_all

/-! ## Candidate close -/

/-- What candidate close can do (44_packet_control.md R160, R161). -/
theorem closeWith_cases (s : State) (bytes : List Byte) (w : ResultWord) :
    (s.cfg.minSymbols < s.candLen ∧
        closeWith s bytes w = clearCandidate (emit s (.cand s.synBuf bytes w))) ∨
      (s.candLen ≤ s.cfg.minSymbols ∧ closeWith s bytes w = clearCandidate s) := by
  unfold closeWith retained
  split <;> simp_all

/-! ## DEC -/

/-- What DEC answers around a command's own outcome (43_decoder.md R140, R141, R144). -/
theorem decodeWith_cases (k : List Byte → ResultWord) (bytes : List Byte) :
    (longEnough bytes = false ∧ decodeWith k bytes = rejWord .rejShort) ∨
      (longEnough bytes = true ∧ checksumOk bytes = false ∧ decodeWith k bytes = rejWord .rejChecksum) ∨
      (longEnough bytes = true ∧ checksumOk bytes = true ∧ decodeWith k bytes = k bytes) := by
  unfold decodeWith
  split_ifs <;> simp_all

/-- What the command dispatch answers (43_decoder.md R145). -/
theorem commandWord_cases (bytes : List Byte) :
    (cmdNibble (frameCommand bytes) = Config.cmdOpenTo ∧ commandWord bytes = openToWord bytes) ∨
      (cmdNibble (frameCommand bytes) = Config.cmdSync ∧ commandWord bytes = syncWord bytes) ∨
      (cmdNibble (frameCommand bytes) ≠ Config.cmdOpenTo ∧ cmdNibble (frameCommand bytes) ≠ Config.cmdSync ∧
        commandWord bytes = unknownWord bytes) := by
  unfold commandWord
  split_ifs <;> simp_all

/-- The fields of a RESULT word read back (30_encoding.md R71). -/
theorem resultWord_fields (st : Status) (k : BitVec 1) (h1 h2 a p : Byte) :
    (resultWord st k h1 h2 a p).extractLsb' 37 3 = statusCode st ∧
      (resultWord st k h1 h2 a p).extractLsb' 36 1 = k ∧ (resultWord st k h1 h2 a p).extractLsb' 32 4 = 0#4 ∧
      (resultWord st k h1 h2 a p).extractLsb' 24 8 = h1 ∧ (resultWord st k h1 h2 a p).extractLsb' 16 8 = h2 ∧
      (resultWord st k h1 h2 a p).extractLsb' 8 8 = a ∧ (resultWord st k h1 h2 a p).extractLsb' 0 8 = p := by
  refine ⟨?_, ?_, ?_, ?_, ?_, ?_, ?_⟩ <;>
    (apply BitVec.eq_of_getLsbD_eq
     intro i hi
     simp only [resultWord, BitVec.getLsbD_extractLsb', BitVec.getLsbD_append]
     interval_cases i <;> simp)

/-! ## The operations -/

/-- The two outcomes of an operation that needs a RESET before it (70_reset_and_hazards.md R221). -/
theorem whenReady_cases (s : State) (k : Result) :
    (s.ready = true ∧ whenReady s k = k) ∨
      (s.ready = false ∧ whenReady s k = .next { s with refused := s.refused ++ [.notReset] }) := by
  unfold whenReady refuse
  split <;> simp_all

/-- If a SAMPLE answers a next state, it was classified or refused (44_packet_control.md R162, R163). -/
theorem sampleIn_next {s t : State} {x : Bool} (h : sampleIn s x = .next t) :
    (s.pktN < s.cfg.sampleCap ∧ ∃ on off sym, clsStep s.cfg s.clsOn s.clsOff x = some (on, off, sym) ∧
        t = routeSymbol { s with pktN := s.pktN + 1, clsOn := on, clsOff := off } sym) ∨
      (s.cfg.sampleCap ≤ s.pktN ∧ t = { s with refused := s.refused ++ [.sampleBeyondCapacity] }) := by
  unfold sampleIn at h
  split at h
  · rename_i hc
    left
    refine ⟨by simpa [withinCapacity] using hc, ?_⟩
    unfold classifySample at h
    split at h
    · cases h
    · rename_i on off sym hs
      injection h with h
      exact ⟨on, off, sym, hs, h.symm⟩
  · rename_i hc
    right
    unfold refuse at h
    injection h with h
    exact ⟨by simpa [withinCapacity] using hc, h.symm⟩

/-- A SAMPLE faults only in a pair the spec gives no meaning, and is never refused by the model. -/
theorem sampleIn_total (s : State) (x : Bool) (h : s.clsLegal) : ∃ t, sampleIn s x = .next t := by
  unfold sampleIn
  split
  · rw [classifySample, clsStep, if_pos h]
    exact ⟨_, rfl⟩
  · exact ⟨_, rfl⟩

/-- Every instruction but a SAMPLE answers a next state in every state. -/
theorem exec_total_of_no_sample (i : Instr) (s : State) (h₀ : i ≠ .sampleOff) (h₁ : i ≠ .sampleOn) :
    ∃ t, exec i s = .next t := by
  cases i with
  | sampleOff => exact absurd rfl h₀
  | sampleOn => exact absurd rfl h₁
  | endPacket =>
    rcases whenReady_cases s (.next (pktInit (emit (closeCandidate s) .eop))) with ⟨_, h⟩ | ⟨_, h⟩ <;>
      exact ⟨_, h⟩
  | reservedOp =>
    rcases whenReady_cases s (refuse s .reservedOp) with ⟨_, h⟩ | ⟨_, h⟩ <;> exact ⟨_, h⟩
  | reset => exact ⟨_, rfl⟩
  | openTo top ext b4 => exact ⟨_, rfl⟩
  | sync top ext b4 => exact ⟨_, rfl⟩
  | unknownCommand top ext b4 cmd => exact ⟨_, rfl⟩

/-! ## Fetch and runs -/

/-- What the host can issue: one of the four input words or RESET, never a command byte
(30_encoding.md R61, 70_reset_and_hazards.md R220). -/
theorem decodeHost_cases (o : HostOp) :
    decodeHost o = .sampleOff ∨ decodeHost o = .sampleOn ∨ decodeHost o = .reservedOp ∨
      decodeHost o = .endPacket ∨ decodeHost o = .reset := by
  cases o with
  | word op =>
    have words : ∀ op : OpWord, decodeHost (.word op) = .sampleOff ∨ decodeHost (.word op) = .sampleOn ∨
        decodeHost (.word op) = .reservedOp ∨ decodeHost (.word op) = .endPacket ∨
        decodeHost (.word op) = .reset := by decide
    exact words op
  | resetInput => exact .inr (.inr (.inr (.inr rfl)))

/-- What the fetch finds (10_state.md R20). -/
theorem fetch_cases (s : State) :
    (s.input = [] ∧ fetch s = none) ∨
      (∃ h rest, s.input = h :: rest ∧ fetch s = some (h, { s with input := rest })) := by
  unfold fetch
  split <;> simp_all

/-- If a step answers a next state, the block waited or executed the oldest waiting operation. -/
theorem step_next {s t : State} (h : step s = .next t) :
    (s.input = [] ∧ t = s) ∨
      (∃ o rest, s.input = o :: rest ∧ exec (decodeHost o) { s with input := rest } = .next t) := by
  unfold step at h
  rcases fetch_cases s with ⟨hi, hf⟩ | ⟨o, rest, hi, hf⟩
  · rw [hf] at h
    injection h with h
    exact .inl ⟨hi, h.symm⟩
  · rw [hf] at h
    exact .inr ⟨o, rest, hi, h⟩

/-- A run over two stretches is the run over the second from where the first ends. -/
theorem runOps_append {ops₁ ops₂ : List HostOp} {s t : State} (h : runOps ops₁ s = .next t) :
    runOps (ops₁ ++ ops₂) s = runOps ops₂ t := by
  induction ops₁ generalizing s with
  | nil => injection h with h; simp [h]
  | cons o rest ih =>
    simp only [runOps, List.cons_append] at h ⊢
    split at h <;> rename_i heq
    · exact ih h
    · cases h
    · cases h

end Sys2Proof.Machine
end

