-- ==== Sys2Proof/Laws/PerInstr.lean ====
section
/-! SUPPORT. A statement about every instruction as syntax: its encoding has the bits its row of
spec/opcode_table.json fixes. -/

namespace Sys2Proof.Laws

/-- The word matches the row's match and mask (an input word, the RESET input, or a command byte). -/
def rowMatches : Instr → InstrWord → Bool
  | .sampleOff, .host (.word op) => op == 0b00#2
  | .sampleOn, .host (.word op) => op == 0b01#2
  | .endPacket, .host (.word op) => op == 0b10#2
  | .reservedOp, .host (.word op) => op == 0b11#2
  | .reset, .host .resetInput => true
  | .openTo _ _ _, .command c => c &&& 0x0F#8 == 0x06#8
  | .sync _ _ _, .command c => c &&& 0x0F#8 == 0x0C#8
  | .unknownCommand _ _ _ _, .command c => c &&& 0x0F#8 != 0x06#8 && c &&& 0x0F#8 != 0x0C#8
  | _, _ => false

/-- The encoding of a well-formed instruction matches its row. -/
def EncodeMatchesRow.Statement (i : Instr) : Prop := i.wf = true → rowMatches i (encode i) = true

theorem EncodeMatchesRow.sampleOff : EncodeMatchesRow.Statement .sampleOff := fun _ => rfl

theorem EncodeMatchesRow.sampleOn : EncodeMatchesRow.Statement .sampleOn := fun _ => rfl

theorem EncodeMatchesRow.endPacket : EncodeMatchesRow.Statement .endPacket := fun _ => rfl

theorem EncodeMatchesRow.reservedOp : EncodeMatchesRow.Statement .reservedOp := fun _ => rfl

theorem EncodeMatchesRow.reset : EncodeMatchesRow.Statement .reset := fun _ => rfl

theorem EncodeMatchesRow.openTo (top : BitVec 2) (ext b4 : Bool) :
    EncodeMatchesRow.Statement (.openTo top ext b4) := by
  intro _
  revert top ext b4
  decide

theorem EncodeMatchesRow.sync (top : BitVec 2) (ext b4 : Bool) :
    EncodeMatchesRow.Statement (.sync top ext b4) := by
  intro _
  revert top ext b4
  decide

/-- A command byte's low nibble is the nibble it was built with. -/
theorem commandByte_low (top : BitVec 2) (ext b4 : Bool) (cmd : BitVec 4) :
    commandByte top ext b4 cmd &&& 0x0F#8 = cmd.setWidth 8 := by
  revert top ext b4 cmd
  decide

theorem EncodeMatchesRow.unknownCommand (top : BitVec 2) (ext b4 : Bool) (cmd : BitVec 4) :
    EncodeMatchesRow.Statement (.unknownCommand top ext b4 cmd) := by
  intro h
  have low : ∀ n : BitVec 4, (n != Config.cmdOpenTo && n != Config.cmdSync) = true →
      (n.setWidth 8 != 0x06#8 && n.setWidth 8 != 0x0C#8) = true := by decide
  simpa only [Sys2Proof.encode, rowMatches, commandByte_low] using low cmd h

end Sys2Proof.Laws
end

