-- ==== Sys2Proof/Tests/Slice0.lean ====
section
/-! SUPPORT. The model's own tests: the smoke test of WellFormed, words written out from the spec's tables,
vectors of 95_test_vectors.md and of the rules' own examples, and for every statement with hypotheses a
concrete state or operand that meets them. -/

namespace Sys2Proof.Tests

open Sys2Proof.Machine

/-! ## WellFormed: ill-formed terms are refused -/

theorem test_wf_unknown_with_openTo_nibble : (Instr.unknownCommand 0#2 false false 0x6#4).wf = false := by decide

theorem test_wf_unknown_with_sync_nibble : (Instr.unknownCommand 3#2 true true 0xC#4).wf = false := by decide

theorem test_wf_unknown : (Instr.unknownCommand 0#2 false false 0x7#4).wf = true := by decide

/-! ## Decoding: words written out from 30_encoding.md R61 and R67, one per constructor -/

theorem test_decode_sampleOff : decode (.host (.word 0b00#2)) = .sampleOff := by decide

theorem test_decode_sampleOn : decode (.host (.word 0b01#2)) = .sampleOn := by decide

theorem test_decode_end : decode (.host (.word 0b10#2)) = .endPacket := by decide

theorem test_decode_reserved : decode (.host (.word 0b11#2)) = .reservedOp := by decide

theorem test_decode_reset : decode (.host .resetInput) = .reset := by decide

/-- 182 = 1011 0110, the command byte of the source's decoder example (43_decoder.md R142). -/
theorem test_decode_openTo : decode (.command 0b10110110#8) = .openTo 0b10#2 true true := by decide

/-- 0x2C, the command byte of V-L1-1. -/
theorem test_decode_sync : decode (.command 0b00101100#8) = .sync 0b00#2 true false := by decide

/-- 0x2D, the command byte of V-DEC-20. -/
theorem test_decode_unknown : decode (.command 0b00101101#8) = .unknownCommand 0b00#2 true false 0xD#4 := by
  decide

/-- The SAMPLE word's `OP[0]` is the sample (30_encoding.md R61). -/
theorem test_sample_words : sampleOp false = .word 0b00#2 ∧ sampleOp true = .word 0b01#2 := by decide

/-- `s^k`, spaces and `E` of the stream notation (30_encoding.md R74). -/
theorem test_parse_stream :
    parseStream ['1', ' ', '0', 'E'] = some [.word 0b01#2, .word 0b00#2, .word 0b10#2] := by decide

/-! ## Small states -/

/-- After RESET, in a classifier pair. -/
def inPair (on off : Nat) : State := { State.reset with clsOn := on, clsOff := off }

/-- The same with the set-aside reading built. -/
def inPairPost (on off : Nat) : State :=
  { inPair on off with cfg := { Config.defaults 8 with clsCheck := .post } }

/-- A retained, locked candidate with these bytes. -/
def withBytes (bytes : List Byte) : State :=
  { State.reset with candLen := 25, synLocked := true, chkBuf := bytes }

/-- One field of an outcome. -/
def field {α : Type} (f : State → α) : Result → Option α
  | .next s => some (f s)
  | .fault _ => none
  | .refused _ => none

/-- The RESULT words of the CAND records output. -/
def results (s : State) : List ResultWord :=
  s.out.filterMap fun r => match r with | .cand _ _ w => some w | .eop => none

/-! ## One step of each instruction -/

/-- R108's example: from (3,1) to (4,0), no symbol. -/
theorem test_sampleOn_continues : field (fun t => (t.clsOn, t.clsOff)) (exec .sampleOn (inPair 3 1)) = some (4, 0) := by
  decide

/-- R100 in (4,1): Break, the pair becomes (4,0), a candidate of 25 symbols is reported. -/
theorem test_sampleOn_break : field (fun t => (t.clsOn, t.clsOff, results t))
    (exec .sampleOn { inPair 4 1 with candLen := 25 }) = some (4, 0, [0x2000000000#40]) := by decide

/-- R109's example: from (2,1) Zero, (0,0). -/
theorem test_sampleOff_zero : field (fun t => (t.clsOn, t.clsOff, t.candLen, t.synZc))
    (exec .sampleOff (inPair 2 1)) = some (0, 0, 1, 1) := by decide

/-- V-CLS-5's last sample: from (3,2) One; after two zeros it is the sync marker (R122). -/
theorem test_sampleOff_one : field (fun t => (t.clsOn, t.clsOff, t.synLocked, t.synZc, t.synBuf))
    (exec .sampleOff { inPair 3 2 with synZc := 2 }) = some (0, 0, true, 0, []) := by decide

/-- V-POST-4's last sample: under POST from (3,1) One. -/
theorem test_sampleOff_post : field (fun t => (t.clsOn, t.clsOff, t.candLen))
    (exec .sampleOff (inPairPost 3 1)) = some (0, 0, 1) := by decide

/-- V-OP-4: the ninth sample of a packet at capacity 8. -/
theorem test_sample_beyond_capacity : field (fun t => (t.pktN, t.refused))
    (exec .sampleOff { inPair 0 1 with pktN := 8, cfg := Config.defaults 8 })
      = some (8, [.sampleBeyondCapacity]) := by decide

/-- V-OP-5: a sample before any RESET. -/
theorem test_sample_not_reset : field (fun t => t.refused) (exec .sampleOff (powerOn State.reset))
    = some [.notReset] := by decide

/-- V-OP-7's END: the partial on-run is dropped. -/
theorem test_end_drops_partial_run : field (fun t => (t.clsOn, t.pktN, t.out))
    (exec .endPacket { inPair 4 0 with pktN := 4 }) = some (0, 0, [.eop]) := by decide

/-- P1's END: the source's decoder example, OK OpenTo(89). -/
theorem test_end_reports_candidate : field (fun t => (results t, t.chkBuf))
    (exec .endPacket (withBytes [39, 5, 0, 182, 227, 209])) = some ([0x1027050059#40], []) := by decide

/-- V-OP-3: the reserved word. -/
theorem test_reserved : exec .reservedOp State.reset = .next { State.reset with refused := [.reservedOp] } := rfl

/-- V-OP-6: RESET in the middle of a packet keeps OUT and appends no EOP. -/
theorem test_reset : field (fun t => (t.clsOn, t.pktN, t.out))
    (exec .reset { inPair 4 0 with pktN := 9, out := [.eop] }) = some (0, 0, [.eop]) := by decide

/-- V-DEC-3: OpenTo(89). -/
theorem test_openTo_extension : field results
    (exec (.openTo 0b10#2 true true) (withBytes [39, 5, 0, 182, 227, 209])) = some [0x1027050059#40] := by decide

/-- V-DEC-6: without extension the percent comes from the checksum byte. -/
theorem test_openTo_no_extension : field results
    (exec (.openTo 0#2 false false) (withBytes [1, 2, 3, 0x06, 24, 0])) = some [0x1001020309#40] := by decide

/-- V-DEC-16: the sum wraps. -/
theorem test_sync_wrap : field results
    (exec (.sync 0#2 true false) (withBytes [255, 255, 255, 0x2C, 255, 52])) = some [0x00FFFFFF00#40] := by decide

/-- V-DEC-8: byte 5 is ignored without extension. -/
theorem test_sync_ignores_byte5 : field results
    (exec (.sync 0#2 false false) (withBytes [1, 2, 3, 0x0C, 30, 77])) = some [0x0001020300#40] := by decide

/-- V-DEC-20: nibble 0xD with a valid checksum. -/
theorem test_unknown : field results
    (exec (.unknownCommand 0#2 true false 0xD#4) (withBytes [1, 2, 3, 0x2D, 7, 70])) = some [0x6000000000#40] := by
  decide

/-- V-DEC-23: both fail, the checksum is reported. -/
theorem test_unknown_bad_checksum : field results
    (exec (.unknownCommand 0#2 true false 0xD#4) (withBytes [1, 2, 3, 0x2D, 7, 0])) = some [0x4000000000#40] := by
  decide

/-! ## The units -/

/-- V-CLS-14: Break, then the post-Break Zero. -/
theorem test_cls_post_break_zero :
    clsRun (Config.defaults 8) 0 0 [true, true, true, true, true, false, false] = [.brk, .bit false] := by decide

/-- V-SYN-8: locks at index 4. -/
theorem test_syn : ([true, true, false, false, true, false].foldl synStep State.reset).synBuf = [false] := by decide

/-- V-CHK-5 and V-CHK-4: MSB first; a lone parity bit is odd. -/
theorem test_chk : ([true, false, false, false, false, false, false, false, true].foldl chkStep State.reset).chkBuf
      = [128#8] ∧
    ([false, false, false, false, false, false, false, false, true].foldl chkStep State.reset).chkStop = true := by
  decide

/-- The eight pairs of R116 are the pairs `POST` gives a meaning at the defaults. -/
theorem test_post_pairs :
    ((List.range 6).flatMap fun on => (List.range 4).map fun off => (on, off)).filter
      (fun x => clsPostPair (Config.defaults 8) x.1 x.2) = reachablePairsPost := by decide

/-- Every row of the opcode table, staged after reset, runs in the next step. -/
theorem test_staged_words_run :
    field (fun t => t.clsOff) (step (State.reset.withFetchWord 8 0)) = some 1 ∧
    field (fun t => t.clsOn) (step (State.reset.withFetchWord 8 1)) = some 1 ∧
    field (fun t => t.out) (step (State.reset.withFetchWord 8 2)) = some [.eop] ∧
    field (fun t => t.refused) (step (State.reset.withFetchWord 8 3)) = some [.reservedOp] ∧
    field results (step (State.reset.withFetchWord 8 0x06)) = some [0x1000000007#40] ∧
    field results (step (State.reset.withFetchWord 8 0x0C)) = some [0x0000000000#40] ∧
    field results (step (State.reset.withFetchWord 8 0x2D)) = some [0x6000000000#40] ∧
    field (fun t => t.out) (step (State.reset.withFetchWord 0 0)) = some [] := by decide

/-! ## Witnesses: the hypotheses of each statement are met, at the boundary of each clause -/

theorem test_witness_DecodeOfEncodeIsTheInstruction :
    (Instr.unknownCommand 3#2 true true 0xF#4).wf = true ∧ (Instr.unknownCommand 0#2 false false 0#4).wf = true := by
  decide

theorem test_witness_StepExecutesTheOldestWaitingOperation :
    ({ State.reset with input := [endOp, .resetInput] } : State).input = endOp :: [.resetInput] ∧
      decode (.host endOp) = .endPacket ∧ Instr.endPacket.wf = true := by decide

theorem test_witness_StepWithNoOperationHoldsTheState : State.reset.input = [] := by decide

theorem test_witness_CandidateCloseRunsTheFramesCommandByte :
    (withBytes [39, 5, 0, 182, 227, 209]).chkBuf[3]? = some 182#8 := by decide

theorem test_witness_OnSampleAtSaturationEmitsBreak :
    (inPair 4 1).accepts ∧ (inPair 4 1).clsLegal ∧ (inPair 4 1).clsOn = (inPair 4 1).cfg.onSat := by decide

theorem test_witness_OnSampleBelowSaturationCountsTheRun :
    (inPair 3 2).accepts ∧ (inPair 3 2).clsLegal ∧ (inPair 3 2).clsOn < (inPair 3 2).cfg.onSat := by decide

theorem test_witness_OffSampleWhileIdlePinsTheOffRun :
    (inPair 0 1).accepts ∧ (inPair 0 1).clsLegal ∧ (inPair 0 1).clsOn = 0 := by decide

theorem test_witness_OffSampleInZeroStateEmitsZero :
    (inPair 4 1).accepts ∧ (inPair 4 1).cfg.clsCheck = .pre ∧ (inPair 4 1).clsLegal ∧ (inPair 4 1).clsOn ≠ 0 ∧
      ((inPair 4 1).clsOn, (inPair 4 1).clsOff) ∈ (inPair 4 1).cfg.zeroStates := by decide

theorem test_witness_OffSampleAtOffOneEmitsOne :
    (inPair 1 2).accepts ∧ (inPair 1 2).cfg.clsCheck = .pre ∧ (inPair 1 2).clsLegal ∧ (inPair 1 2).clsOn ≠ 0 ∧
      ((inPair 1 2).clsOn, (inPair 1 2).clsOff) ∉ (inPair 1 2).cfg.zeroStates ∧
      (inPair 1 2).clsOff = (inPair 1 2).cfg.offOne := by decide

theorem test_witness_OffSampleInsideARunCountsTheOffRun :
    (inPair 3 1).accepts ∧ (inPair 3 1).cfg.clsCheck = .pre ∧ (inPair 3 1).clsLegal ∧ (inPair 3 1).clsOn ≠ 0 ∧
      ((inPair 3 1).clsOn, (inPair 3 1).clsOff) ∉ (inPair 3 1).cfg.zeroStates ∧
      (inPair 3 1).clsOff ≠ (inPair 3 1).cfg.offOne := by decide

theorem test_witness_PostOffSampleTestsAfterTheCount_zero :
    (inPairPost 4 0).accepts ∧ (inPairPost 4 0).cfg.clsCheck = .post ∧ (inPairPost 4 0).clsLegal ∧
      (inPairPost 4 0).clsOn ≠ 0 ∧
      ((inPairPost 4 0).clsOn, (inPairPost 4 0).clsOff + 1) ∈ (inPairPost 4 0).cfg.zeroStates := by decide

theorem test_witness_PostOffSampleTestsAfterTheCount_one :
    (inPairPost 1 1).accepts ∧ (inPairPost 1 1).cfg.clsCheck = .post ∧ (inPairPost 1 1).clsLegal ∧
      (inPairPost 1 1).clsOn ≠ 0 ∧
      ((inPairPost 1 1).clsOn, (inPairPost 1 1).clsOff + 1) ∉ (inPairPost 1 1).cfg.zeroStates ∧
      (inPairPost 1 1).clsOff + 1 = (inPairPost 1 1).cfg.offOne := by decide

theorem test_witness_PostOffSampleTestsAfterTheCount_inside :
    (inPairPost 3 0).accepts ∧ (inPairPost 3 0).cfg.clsCheck = .post ∧ (inPairPost 3 0).clsLegal ∧
      (inPairPost 3 0).clsOn ≠ 0 ∧
      ((inPairPost 3 0).clsOn, (inPairPost 3 0).clsOff + 1) ∉ (inPairPost 3 0).cfg.zeroStates ∧
      (inPairPost 3 0).clsOff + 1 ≠ (inPairPost 3 0).cfg.offOne := by decide

theorem test_witness_SymbolsComeFromTheirKindOfSample :
    clsStep (Config.defaults 8) 4 1 true = some (4, 0, some .brk) ∧
      clsStep (Config.defaults 8) 4 1 false = some (0, 0, some (.bit false)) := by decide

theorem test_witness_atDefaults :
    (Config.defaults 8).atDefaults ∧ ({ Config.defaults 0 with clsCheck := .post } : Params).atDefaults := by decide

theorem test_witness_SampleBeyondCapacityIsRefused :
    State.reset.ready = true ∧
      ({ State.reset with cfg := Config.defaults 0 } : State).cfg.sampleCap
        ≤ ({ State.reset with cfg := Config.defaults 0 } : State).pktN := by decide

/-- One state per clause of syn_step, at the boundary of the zero count. -/
theorem test_witness_SynStepFollowsItsFourCases :
    State.reset.synLocked = false ∧ 2 ≤ ({ State.reset with synZc := 2 } : State).synZc ∧
      ({ State.reset with synZc := 1 } : State).synZc < 2 ∧ (withBytes []).synLocked = true := by decide

theorem test_witness_SynOverACandidateIsTheBatchSync :
    markerAt [false, false, true, false] 2 ∧ (∀ i < 2, ¬ markerAt [false, false, true, false] i) := by decide

theorem test_witness_SynOverACandidateIsTheBatchSync_none : ∀ j, ¬ markerAt [] j := by
  intro j h
  exact absurd h.2.1 (by simp)

/-- One shift register per clause of a ninth bit, and a count below and at the boundary. -/
theorem test_witness_ChkStepFollowsItsFourCases :
    State.reset.chkStop = false ∧ ({ State.reset with chkCnt := 7 } : State).chkCnt + 1 ≠ 9 ∧
      ({ State.reset with chkCnt := 8 } : State).chkCnt + 1 = 9 ∧
      popcount (((0x80#9) <<< 1) ||| (BitVec.ofBool true).setWidth 9) % 2 = 0 ∧
      popcount (((0x80#9) <<< 1) ||| (BitVec.ofBool false).setWidth 9) % 2 = 1 := by decide

theorem test_witness_AValidChunkAppendsItsByte :
    State.reset.chkStop = false ∧ State.reset.chkSr = 0#9 ∧ State.reset.chkCnt = 0 := by decide

theorem test_witness_FewerThanSixBytesAreRejectedShort : [39#8, 5#8, 0#8, 182#8, 227#8].length < 6 := by decide

theorem test_witness_OpenToResultCarriesThePercent :
    6 ≤ [39#8, 5, 0, 182, 227, 209].length ∧ checksumOk [39#8, 5, 0, 182, 227, 209] = true ∧
      ([39#8, 5, 0, 182, 227, 209].getD 3 0#8).extractLsb' 0 4 = 0x6#4 := by decide

theorem test_witness_SyncResultCarriesNoPercent :
    6 ≤ [39#8, 9, 0, 44, 235, 83].length ∧ checksumOk [39#8, 9, 0, 44, 235, 83] = true ∧
      ([39#8, 9, 0, 44, 235, 83].getD 3 0#8).extractLsb' 0 4 = 0xC#4 := by decide

theorem test_witness_UnknownNibbleIsRejected :
    6 ≤ [1#8, 2, 3, 0x2D, 7, 70].length ∧ checksumOk [1#8, 2, 3, 0x2D, 7, 70] = true ∧
      ([1#8, 2, 3, 0x2D, 7, 70].getD 3 0#8).extractLsb' 0 4 ≠ 0x6#4 ∧
      ([1#8, 2, 3, 0x2D, 7, 70].getD 3 0#8).extractLsb' 0 4 ≠ 0xC#4 := by decide

theorem test_witness_BytesAfterTheFrameDoNotMatter :
    [1#8, 2, 3, 0x0C, 30, 0].take (frameLen [1#8, 2, 3, 0x0C, 30, 0])
      = [1#8, 2, 3, 0x0C, 30, 77, 9].take (frameLen [1#8, 2, 3, 0x0C, 30, 0]) := by decide

theorem test_witness_OpenToCompletesWithItsRecord :
    24 < (withBytes [39, 5, 0, 0, 227, 209]).candLen ∧
      checksumOk ([39#8, 5, 0, 0, 227, 209].set 3
        (0b10#2 ++ BitVec.ofBool true ++ BitVec.ofBool true ++ 0x6#4)) = true := by decide

theorem test_witness_SyncCompletesWithItsRecord :
    24 < (withBytes [39, 9, 0, 0, 235, 83]).candLen ∧
      checksumOk ([39#8, 9, 0, 0, 235, 83].set 3
        (0#2 ++ BitVec.ofBool true ++ BitVec.ofBool false ++ 0xC#4)) = true := by decide

theorem test_witness_UnknownCommandCompletesWithItsRecord :
    24 < (withBytes [1, 2, 3, 0, 7, 70]).candLen ∧ (0xD#4 ≠ 0x6#4 ∧ 0xD#4 ≠ 0xC#4) ∧
      checksumOk ([1#8, 2, 3, 0, 7, 70].set 3
        (0#2 ++ BitVec.ofBool true ++ BitVec.ofBool false ++ 0xD#4)) = true := by decide

/-- An unretained, a short and a mis-summed candidate. -/
theorem test_witness_CommandsInBadFramesAreRejectedBeforeDispatch :
    (Instr.openTo 0#2 false false).wf = true ∧ encode (.openTo 0#2 false false) = .command 0x06#8 ∧
      ({ State.reset with candLen := 24 } : State).candLen ≤ State.reset.cfg.minSymbols ∧
      24 < (withBytes [1, 2, 3, 6, 24]).candLen ∧ ([1#8, 2, 3, 6, 24].set 3 0x06#8).length < 6 ∧
      checksumOk ([1#8, 2, 3, 6, 25, 0].set 3 0x06#8) = false := by decide

theorem test_witness_ready : State.reset.ready = true := by decide

theorem test_witness_packetInitial :
    State.reset.isS0 ∧ State.reset.ready = true ∧ State.reset.cfg.atDefaults ∧
      (idleShape 3).length ≤ State.reset.cfg.sampleCap := by decide

theorem test_witness_BitShapeEmitsItsSymbol :
    (inPair 0 1).ready = true ∧ (inPair 0 1).cfg.atDefaults ∧ (inPair 0 1).cfg.clsCheck = .pre ∧
      (inPair 0 1).clsOn = 0 ∧ (inPair 0 1).clsOff ≤ 1 ∧
      ({ inPair 0 1 with cfg := Config.defaults 6 } : State).pktN + (bitShape true).length ≤ 6 := by decide

theorem test_witness_AFrameIsDecodedToItsBytes : 2 ≤ [0#8, 255#8].length := by decide

/-- A next outcome of an instruction of each kind exists. -/
theorem test_witness_exec_next :
    exec .reset State.reset = .next State.reset ∧
      (field results (exec .endPacket (withBytes []))).isSome = true := ⟨rfl, by decide⟩

theorem test_witness_OutputAndMarkDoNotInfluenceTheBlock :
    sameBlock State.reset { State.reset with out := [.eop], refused := [.reservedOp], input := [endOp] } := rfl

/-- The fault of ExecFaultsOnlyInAMeaninglessPair is reached, in a state no run reaches. -/
theorem test_witness_ExecFaultsOnlyInAMeaninglessPair :
    exec .sampleOff (inPair 1 3) = .fault .clsPairWithoutMeaning ∧
      exec .sampleOn (inPairPost 1 2) = .fault .clsPairWithoutMeaning := ⟨rfl, rfl⟩

/-- A Zero and a One emitted for an accepted sample (40_classifier.md R103, R104). -/
theorem test_witness_SymbolIsCountedAndPassedToSyn :
    (inPair 4 1).accepts ∧
      clsStep (inPair 4 1).cfg (inPair 4 1).clsOn (inPair 4 1).clsOff false = some (0, 0, some (.bit false)) ∧
      (inPair 3 2).accepts ∧
      clsStep (inPair 3 2).cfg (inPair 3 2).clsOn (inPair 3 2).clsOff false = some (0, 0, some (.bit true)) := by
  decide

/-- Each reason due, at the boundary of the capacity, and an operation to which none is due. -/
theorem test_witness_RefusalsAreExactlyTheListedOnes :
    refusalDue .sampleOn { State.reset with pktN := 1024 } = some .sampleBeyondCapacity ∧
      refusalDue .sampleOn { State.reset with pktN := 1023 } = none ∧
      refusalDue .reservedOp State.reset = some .reservedOp ∧
      refusalDue .endPacket (powerOn State.reset) = some .notReset ∧
      refusalDue .reset (powerOn State.reset) = none := by decide

/-- In the middle of a frame: locked, two synced bits in the shift register, an off sample short of a
Zero. -/
def midFrame : State :=
  { State.reset with clsOn := 2, clsOff := 1, candLen := 5, synLocked := true, synBuf := [true, false],
                     chkSr := 2#9, chkCnt := 2, pktN := 23 }

theorem midFrame_regs : RegInv midFrame where
  candLenRange := by decide
  synZcRange := by decide
  chkCntRange := by decide
  unlocked := by decide
  lockedZc := by decide
  chunkLength := by decide
  shiftRegister := by decide
  stopped := by decide
  candLenBound := by decide
  clsPair := by decide
  density := by decide
  bytesBound := by decide
  capacity := by decide

theorem test_witness_Inv : Inv midFrame ∧ midFrame.ready = true :=
  ⟨⟨by decide, fun _ => midFrame_regs⟩, rfl⟩

/-- The rest of a packet, a RESET and a full packet, from the invariant's witness at the capacity 25. -/
theorem test_witness_AHostKeepingItsDutiesIsNeverRefused :
    keepsDuties 25 midFrame.pktN
        (samples [false, true] ++ [endOp, .resetInput] ++ samples (idleShape 25) ++ [endOp]) = true ∧
      keepsDuties 25 midFrame.pktN (samples [false, true, true]) = false ∧
      keepsDuties midFrame.cfg.sampleCap midFrame.pktN (samples [false, true] ++ [endOp]) = true := by decide

/-- The step of the invariant's witness: the Zero is passed to SYN and CHK. -/
theorem test_witness_Inv_step : field (fun t => (t.synBuf, t.chkCnt, t.chkSr))
    (step { midFrame with input := [sampleOp false] }) = some ([true, false, false], 3, 4#9) := by decide

theorem test_witness_EveryStepKeepsTheRecordsDecoded :
    chkAgrees midFrame ∧ (∀ r ∈ [OutRecord.cand [] [] 0x2000000000#40], recordAgrees r) := by
  refine ⟨⟨by decide, by decide, by decide, by decide⟩, ?_⟩
  intro r h
  rw [List.mem_singleton.1 h]
  exact ⟨by decide, by decide⟩

end Sys2Proof.Tests
end

/-! ## What an instruction does

One relation says once everything an instruction can do to the state; the statements about every instruction
are case splits over it. -/

namespace Sys2Proof.Machine

/-- The SAMPLE instruction of a sample value (00_scope.md R13). -/
def sampleInstr (x : Bool) : Instr := if x then .sampleOn else .sampleOff

theorem decodeHost_sampleOp (x : Bool) : decodeHost (sampleOp x) = sampleInstr x := by
  cases x <;> rfl

theorem exec_sampleInstr (s : State) (x : Bool) :
    exec (sampleInstr x) s = whenReady s (sampleIn s x) := by
  cases x <;> rfl

/-- The outcome DEC dispatches to for a command instruction (43_decoder.md R145 to R148). -/
def commandMeaning : Instr → List Byte → ResultWord
  | .openTo _ _ _ => openToWord
  | .sync _ _ _ => syncWord
  | _ => unknownWord

/-- A command instruction is the close of the candidate with its byte in the frame (log entry 7). -/
theorem exec_command {i : Instr} {c : Byte} (s : State) (hi : encode i = .command c) :
    exec i s = .next (closeWithCommand s c (commandMeaning i)) := by
  cases i with
  | openTo top ext b4 => injection hi with hc; subst hc; rfl
  | sync top ext b4 => injection hi with hc; subst hc; rfl
  | unknownCommand top ext b4 cmd => injection hi with hc; subst hc; rfl
  | sampleOff | sampleOn | endPacket | reservedOp | reset => cases hi

/-- The sample counted and the classifier at its next pair (44_packet_control.md R162). -/
def countSample (s : State) (on off : Nat) : State := { s with pktN := s.pktN + 1, clsOn := on, clsOff := off }

/-- `Effect s i t`: executing `i` in `s` leads to `t`. One constructor per kind of change. -/
inductive Effect (s : State) : Instr → State → Prop
  /-- a refusal adds its reason to the mark (70_reset_and_hazards.md R230) -/
  | refused {i : Instr} {reason : RefuseReason} (due : refusalDue i s = some reason) :
      Effect s i { s with refused := s.refused ++ [reason] }
  /-- an accepted sample is counted and its symbol routed (44_packet_control.md R162) -/
  | sampled {x : Bool} {on off : Nat} {sym : Option Symbol} (accepts : s.accepts)
      (classified : clsStep s.cfg s.clsOn s.clsOff x = some (on, off, sym)) :
      Effect s (sampleInstr x) (routeSymbol (countSample s on off) sym)
  /-- END closes the packet (44_packet_control.md R164) -/
  | ended (ready : s.ready = true) : Effect s .endPacket (pktInit (emit (closeCandidate s) .eop))
  /-- RESET (70_reset_and_hazards.md R220) -/
  | reset : Effect s .reset { pktInit s with ready := true }
  /-- a command byte closes the candidate (log entry 7) -/
  | closed {i : Instr} {c : Byte} (byte : encode i = .command c) :
      Effect s i (closeWithCommand s c (commandMeaning i))

/-- Where a refusal is due, it is what happens (70_reset_and_hazards.md R230). -/
theorem exec_of_refusalDue {i : Instr} {s : State} {r : RefuseReason} (h : refusalDue i s = some r) :
    exec i s = .next { s with refused := s.refused ++ [r] } := by
  cases i with
  | sampleOff | sampleOn =>
    simp only [refusalDue] at h
    split_ifs at h with hr hc <;> cases h
    · simp [exec, execSampleOff, execSampleOn, whenReady, hr, sampleIn, (withinCapacity_eq_false s).2 hc, refuse]
    · simp [exec, execSampleOff, execSampleOn, whenReady, hr, refuse]
  | endPacket =>
    simp only [refusalDue] at h
    split_ifs at h with hr
    cases h
    simp [exec, execEnd, whenReady, hr, refuse]
  | reservedOp =>
    simp only [refusalDue] at h
    split_ifs at h with hr <;> cases h <;> simp [exec, execReserved, whenReady, hr, refuse]
  | reset | openTo | sync | unknownCommand => cases h

/-- A SAMPLE that answers a next state has one of its effects (44_packet_control.md R162, R163). -/
theorem effect_of_exec_sample {s t : State} {x : Bool} (h : exec (sampleInstr x) s = .next t) :
    Effect s (sampleInstr x) t := by
  rw [exec_sampleInstr] at h
  rcases whenReady_cases s (sampleIn s x) with ⟨hr, hk⟩ | ⟨hr, hk⟩ <;> rw [hk] at h
  · rcases sampleIn_next h with ⟨hc, on, off, sym, hs, rfl⟩ | ⟨hc, rfl⟩
    · exact .sampled ⟨hr, hc⟩ hs
    · exact .refused (by cases x <;> simp [refusalDue, sampleInstr, hr, hc])
  · cases h
    exact .refused (by cases x <;> simp [refusalDue, sampleInstr, hr])

theorem effect_of_exec {i : Instr} {s t : State} (h : exec i s = .next t) : Effect s i t := by
  cases i with
  | sampleOff => exact effect_of_exec_sample (x := false) h
  | sampleOn => exact effect_of_exec_sample (x := true) h
  | endPacket =>
    rcases whenReady_cases s (.next (pktInit (emit (closeCandidate s) .eop))) with ⟨hr, hk⟩ | ⟨hr, hk⟩ <;>
      cases hk.symm.trans h
    · exact .ended hr
    · exact .refused (by simp [refusalDue, hr])
  | reservedOp =>
    rcases whenReady_cases s (refuse s .reservedOp) with ⟨hr, hk⟩ | ⟨hr, hk⟩ <;> cases hk.symm.trans h <;>
      exact .refused (by simp [refusalDue, hr])
  | reset => cases h; exact .reset
  | openTo top ext b4 => cases h; exact .closed (i := .openTo top ext b4) rfl
  | sync top ext b4 => cases h; exact .closed (i := .sync top ext b4) rfl
  | unknownCommand top ext b4 cmd => cases h; exact .closed (i := .unknownCommand top ext b4 cmd) rfl

theorem exec_of_effect {i : Instr} {s t : State} (h : Effect s i t) : exec i s = .next t := by
  cases h with
  | refused due => exact exec_of_refusalDue due
  | sampled accepts classified =>
    simp [exec_sampleInstr, whenReady, accepts.1, sampleIn, (withinCapacity_eq_true s).2 accepts.2,
      classifySample, classified, countSample]
  | ended ready => simp [exec, execEnd, whenReady, ready]
  | reset => rfl
  | closed byte => exact exec_command s byte

/-- An instruction has one effect. -/
theorem Effect.unique {i : Instr} {s t t' : State} (h : Effect s i t) (h' : Effect s i t') : t = t' :=
  Host.Outcome.next.inj ((exec_of_effect h).symm.trans (exec_of_effect h'))

/-- No instruction writes a build-time parameter (10_state.md R36). -/
theorem Effect.cfg_eq {i : Instr} {s t : State} (h : Effect s i t) : t.cfg = s.cfg := by
  cases h <;> simp [closeWithCommand, countSample]

/-- A waiting operation that the fetch takes (10_state.md R20). -/
theorem fetch_of_input {s : State} {o : HostOp} {rest : List HostOp} (h : s.input = o :: rest) :
    fetch s = some (o, { s with input := rest }) := by
  unfold fetch
  rw [h]

/-- Settles O4: the fetch takes the oldest waiting operation, and the step runs what it decodes to. -/
theorem stepExecutesTheOldestWaitingOperation : Obligations.StepExecutesTheOldestWaitingOperation := by
  intro s o rest i hin hdec _
  rw [step, fetch_of_input hin, ← hdec]

end Sys2Proof.Machine

/-! ## OUT, the refused mark and the waiting operations are appended to and never read (R33, R38) -/

namespace Sys2Proof.Machine

/-- The state with other records output, other refusals made and other operations waiting. -/
def withOutside (s : State) (o : List OutRecord) (r : List RefuseReason) (n : List HostOp) : State :=
  { s with out := o, refused := r, input := n }

theorem sameBlock_iff {s s' : State} : sameBlock s s' ↔ ∃ o r n, s' = withOutside s o r n := by
  constructor
  · intro h
    exact ⟨s'.out, s'.refused, s'.input, h.symm⟩
  · rintro ⟨o, r, n, rfl⟩
    rfl

section
variable (s : State) (o : List OutRecord) (r : List RefuseReason) (n : List HostOp)

theorem withOutside_self : withOutside s s.out s.refused s.input = s := rfl

theorem sameBlock_withOutside : sameBlock s (withOutside s o r n) := rfl

theorem refusalDue_withOutside (i : Instr) : refusalDue i (withOutside s o r n) = refusalDue i s := by
  cases i <;> rfl

theorem chkStep_withOutside (b : Bool) :
    chkStep (withOutside s o r n) b = withOutside (chkStep s b) o r n := by
  simp only [chkStep, chkGroup, apply_ite (withOutside · o r n)]
  rfl

theorem synStep_withOutside (b : Bool) :
    synStep (withOutside s o r n) b = withOutside (synStep s b) o r n := by
  simp only [synStep, apply_ite (withOutside · o r n), ← chkStep_withOutside]
  rfl

theorem symbolIn_withOutside (b : Bool) :
    symbolIn (withOutside s o r n) b = withOutside (symbolIn s b) o r n :=
  synStep_withOutside { s with candLen := min (s.candLen + 1) (s.cfg.minSymbols + 1) } o r n b

/-- The record candidate close appends, if any (44_packet_control.md R161). -/
def closeRecords (bytes : List Byte) (w : ResultWord) : List OutRecord :=
  if retained s then [.cand s.synBuf bytes w] else []

theorem closeWith_withOutside (bytes : List Byte) (w : ResultWord) :
    closeWith (withOutside s o r n) bytes w
      = withOutside (closeWith s bytes w) (o ++ closeRecords s bytes w) r n := by
  have hret : retained (withOutside s o r n) = retained s := rfl
  simp only [closeWith, closeRecords, hret]
  split_ifs <;> simp [clearCandidate, emit, withOutside]

theorem closeCandidate_withOutside :
    closeCandidate (withOutside s o r n)
      = withOutside (closeCandidate s) (o ++ closeRecords s s.chkBuf (decodeFrame s.chkBuf)) r n :=
  closeWith_withOutside s o r n s.chkBuf (decodeFrame s.chkBuf)

/-- END appends the record of the candidate it closes and `EOP` (44_packet_control.md R164). -/
theorem endPacket_withOutside :
    pktInit (emit (closeCandidate (withOutside s o r n)) .eop)
      = withOutside (pktInit (emit (closeCandidate s) .eop))
          (o ++ (closeRecords s s.chkBuf (decodeFrame s.chkBuf) ++ [.eop])) r n := by
  rw [closeCandidate_withOutside, ← List.append_assoc]
  rfl

/-- What routing a symbol appends: the record of the candidate that a Break closes. -/
def routeRecords : Option Symbol → List OutRecord
  | some .brk => closeRecords s s.chkBuf (decodeFrame s.chkBuf)
  | _ => []

theorem routeSymbol_withOutside (y : Option Symbol) :
    routeSymbol (withOutside s o r n) y = withOutside (routeSymbol s y) (o ++ routeRecords s y) r n := by
  match y with
  | none => simp [routeSymbol, routeRecords, withOutside]
  | some (.bit b) => simpa [routeSymbol, routeRecords] using symbolIn_withOutside s o r n b
  | some .brk => exact closeCandidate_withOutside s o r n

end

/-- An instruction appends the same records and refusals whatever was output, refused or is waiting before, and
changes the rest of the state alike. -/
theorem Effect.noninterference {i : Instr} {s t : State} (h : Effect s i t) :
    ∃ added reasons, ∀ o r n,
      Effect (withOutside s o r n) i (withOutside t (o ++ added) (r ++ reasons) n) := by
  cases h with
  | @refused _ reason due =>
    refine ⟨[], [reason], fun o r n => ?_⟩
    rw [List.append_nil]
    exact .refused (s := withOutside s o r n) ((refusalDue_withOutside s o r n i).trans due)
  | @sampled x on off sym accepts classified =>
    refine ⟨routeRecords (countSample s on off) sym, [], fun o r n => ?_⟩
    rw [List.append_nil, ← routeSymbol_withOutside]
    exact .sampled (s := withOutside s o r n) accepts classified
  | ended ready =>
    refine ⟨closeRecords s s.chkBuf (decodeFrame s.chkBuf) ++ [.eop], [], fun o r n => ?_⟩
    rw [List.append_nil, ← endPacket_withOutside]
    exact .ended (s := withOutside s o r n) ready
  | reset =>
    refine ⟨[], [], fun o r n => ?_⟩
    rw [List.append_nil, List.append_nil]
    exact .reset (s := withOutside s o r n)
  | @closed _ c byte =>
    refine ⟨closeRecords s (withFrameCommand s.chkBuf c) (decodeWith (commandMeaning i)
      (withFrameCommand s.chkBuf c)), [], fun o r n => ?_⟩
    rw [List.append_nil, closeWithCommand, ← closeWith_withOutside]
    exact .closed (s := withOutside s o r n) byte

/-- The old `OUT` and the old mark stay in front (10_state.md R33, 70_reset_and_hazards.md R230), and the
waiting operations stay as they are (20_memory.md R59). -/
theorem Effect.appends {i : Instr} {s t : State} (h : Effect s i t) :
    s.out <+: t.out ∧ s.refused <+: t.refused ∧ t.input = s.input := by
  obtain ⟨added, reasons, hrun⟩ := h.noninterference
  rw [h.unique (hrun s.out s.refused s.input)]
  exact ⟨⟨added, rfl⟩, ⟨reasons, rfl⟩, rfl⟩

/-- Settles O45: every instruction only appends to `OUT`. -/
theorem noInstructionRemovesARecord : Obligations.NoInstructionRemovesARecord := by
  intro i s t h
  exact (effect_of_exec h).appends.1

/-- Settles O48: the second state is the first with another outside, under which the same instruction appends
the same records. -/
theorem outputAndMarkDoNotInfluenceTheBlock : Obligations.OutputAndMarkDoNotInfluenceTheBlock := by
  intro i s s' t hsame h
  obtain ⟨o, r, n, rfl⟩ := sameBlock_iff.1 hsame
  have heff := effect_of_exec h
  obtain ⟨added, reasons, hrun⟩ := heff.noninterference
  have ht : t = withOutside t (s.out ++ added) (s.refused ++ reasons) s.input :=
    heff.unique (hrun s.out s.refused s.input)
  exact ⟨_, exec_of_effect (hrun o r n), sameBlock_withOutside .., added, congrArg State.out ht, rfl⟩

end Sys2Proof.Machine

/-! ## The classifier at the default thresholds (10_state.md R24, 40_classifier.md R113, R116) -/

namespace Sys2Proof.Machine

/-- The default thresholds with the reading `c`; the capacity does not matter to CLS. -/
def defaultsFor (c : ClsCheck) : Params := { Config.defaults 0 with clsCheck := c }

/-- `cls_step` reads the thresholds and the reading only. -/
theorem clsStep_of_atDefaults {p : Params} (h : p.atDefaults) (on off : Nat) (x : Bool) :
    clsStep p on off x = clsStep (defaultsFor p.clsCheck) on off x := by
  obtain ⟨hon, hoff, hzero, hmin⟩ := h
  cases p
  subst hon hoff hzero hmin
  rfl

/-- A sample keeps the pair in the list, and what it emits is paid for: the samples of a `Zero` or `One` are
those in progress and this one. -/
abbrev paidStep (c : ClsCheck) (on off : Nat) (r : Nat × Nat × Option Symbol) : Prop :=
  (r.1, r.2.1) ∈ reachablePairs c ∧
    samplesPerSymbol c * countBits r.2.2.toList + samplesInProgress c r.1 r.2.1 ≤ samplesInProgress c on off + 1

/-- The table of `cls_step` over the reachable pairs, checked row by row. -/
theorem clsStep_defaultsFor (c : ClsCheck) (x : Bool) (pair : Nat × Nat) (h : pair ∈ reachablePairs c) :
    ∃ r, clsStep (defaultsFor c) pair.1 pair.2 x = some r ∧ paidStep c pair.1 pair.2 r := by
  have rows : ∀ c ∈ [ClsCheck.pre, ClsCheck.post], ∀ x : Bool, ∀ pair ∈ reachablePairs c,
      ∃ r ∈ (clsStep (defaultsFor c) pair.1 pair.2 x).toList, paidStep c pair.1 pair.2 r := by decide
  obtain ⟨r, hr, hpaid⟩ := rows c (by cases c <;> simp) x pair h
  exact ⟨r, Option.mem_toList.1 hr, hpaid⟩

/-- From a reachable pair every sample has a meaning and is paid for. -/
theorem clsStep_of_reachable {p : Params} (hp : p.atDefaults) {on off : Nat}
    (h : (on, off) ∈ reachablePairs p.clsCheck) (x : Bool) :
    ∃ r, clsStep p on off x = some r ∧ paidStep p.clsCheck on off r := by
  rw [clsStep_of_atDefaults hp]
  exact clsStep_defaultsFor p.clsCheck x (on, off) h

theorem clsEnd_cons {p : Params} {on off on' off' : Nat} {x : Bool} {y : Option Symbol} (w : List Bool)
    (h : clsStep p on off x = some (on', off', y)) : clsEnd p on off (x :: w) = clsEnd p on' off' w := by
  rw [clsEnd, h]

/-- A sample string from a reachable pair ends in a reachable pair. -/
theorem clsEnd_reachable {p : Params} (hp : p.atDefaults) (w : List Bool) :
    ∀ {on off : Nat}, (on, off) ∈ reachablePairs p.clsCheck →
      ∃ pair ∈ reachablePairs p.clsCheck, clsEnd p on off w = some pair := by
  induction w with
  | nil => exact fun h => ⟨_, h, rfl⟩
  | cons x w ih =>
    intro on off h
    obtain ⟨⟨on', off', y⟩, hstep, hnext, -⟩ := clsStep_of_reachable hp h x
    rw [clsEnd_cons w hstep]
    exact ih hnext

theorem idle_reachable (c : ClsCheck) : (0, 0) ∈ reachablePairs c := by
  cases c <;> decide

theorem clsEnd_of_atDefaults {p : Params} (hp : p.atDefaults) (w : List Bool) :
    ∀ on off, clsEnd p on off w = clsEnd (defaultsFor p.clsCheck) on off w := by
  induction w with
  | nil => exact fun _ _ => rfl
  | cons x w ih =>
    intro on off
    simp only [clsEnd, clsStep_of_atDefaults hp, ih]

/-- A sample string that leads from (0,0) to a listed pair: its on samples, then its off samples. -/
def pathTo (pair : Nat × Nat) : List Bool := List.replicate pair.1 true ++ List.replicate pair.2 false

theorem clsEnd_pathTo (c : ClsCheck) (pair : Nat × Nat) (h : pair ∈ reachablePairs c) :
    clsEnd (defaultsFor c) 0 0 (pathTo pair) = some pair := by
  cases c with
  | pre => exact (by decide : ∀ q ∈ reachablePairsPre, clsEnd (defaultsFor .pre) 0 0 (pathTo q) = some q) pair h
  | post => exact (by decide : ∀ q ∈ reachablePairsPost, clsEnd (defaultsFor .post) 0 0 (pathTo q) = some q) pair h

/-- Settles O18: the list is closed under `cls_step`, and `pathTo` leads to each of its pairs. -/
theorem reachablePairsAreTheListedOnes : Obligations.ReachablePairsAreTheListedOnes := by
  intro p pair hp
  constructor
  · rintro ⟨w, hw⟩
    obtain ⟨q, hq, hend⟩ := clsEnd_reachable hp w (idle_reachable p.clsCheck)
    exact Option.some.inj (hend.symm.trans hw) ▸ hq
  · intro h
    exact ⟨pathTo pair, (clsEnd_of_atDefaults hp _ 0 0).trans (clsEnd_pathTo p.clsCheck pair h)⟩

end Sys2Proof.Machine

/-! ## CHK and the shift register (42_chunker.md R130, 10_state.md R39 (c)) -/

namespace Sys2Proof.Machine

@[simp] theorem bitsValue_append (l : List Bool) (b : Bool) : bitsValue (l ++ [b]) = 2 * bitsValue l + b.toNat := by
  simp [bitsValue]

theorem bitsValue_lt (l : List Bool) : bitsValue l < 2 ^ l.length := by
  induction l using List.reverseRecOn with
  | nil => decide
  | append_singleton l b ih =>
    have hb := b.toNat_lt
    rw [bitsValue_append, List.length_append, List.length_singleton, Nat.pow_succ]
    omega

/-- A shift that loses no bit appends one at the low end. -/
theorem shiftIn_toNat {sr : Chunk} (b : Bool) (h : sr.toNat < 256) :
    (shiftIn sr b).toNat = 2 * sr.toNat + b.toNat := by
  have hb := b.toNat_lt
  have hor : 2 * sr.toNat + b.toNat = 2 * sr.toNat ||| b.toNat :=
    Nat.two_pow_add_eq_or_of_lt (i := 1) hb sr.toNat
  have hbit : b.toNat % 512 = b.toNat := by omega
  have hshift : sr.toNat * 2 % 512 = 2 * sr.toNat := by omega
  simp [shiftIn, Nat.shiftLeft_eq, hor, hbit, hshift]

/-- The part of `RegInv` that is about CHK and the bits passed to it: R29, R39 (c) and (d), and the byte
bound. -/
structure ChkInv (s : State) : Prop where
  count : s.chkCnt < Config.chunkBits
  lengths : s.chkStop = false → s.synBuf.length = Config.chunkBits * s.chkBuf.length + s.chkCnt
  register : s.chkStop = false → s.chkSr.toNat = bitsValue (s.synBuf.drop (s.synBuf.length - s.chkCnt))
  stopped : s.chkStop = true → s.chkCnt = 0 ∧ s.chkSr = 0#9
  bytes : Config.chunkBits * s.chkBuf.length ≤ s.synBuf.length

theorem RegInv.chkInv {s : State} (h : RegInv s) : ChkInv s :=
  ⟨h.chkCntRange, h.chunkLength, h.shiftRegister, h.stopped, h.bytesBound⟩

/-- The ninth bit of a chunk: a byte was completed, or CHK stops. -/
theorem chkGroup_keeps_chkInv {s : State} {b : Bool} (h : ChkInv s) (hrun : s.chkStop = false)
    (hcnt : s.chkCnt + 1 = Config.chunkBits) (sr : Chunk) :
    ChkInv (chkGroup { s with synBuf := s.synBuf ++ [b] } sr) := by
  have hlen := h.lengths hrun
  rcases chkGroup_cases { s with synBuf := s.synBuf ++ [b] } sr with ⟨-, heq⟩ | ⟨-, heq⟩ <;> rw [heq]
  · exact {
      count := Nat.succ_pos 8
      lengths := fun _ => by simp [Config.chunkBits] at hlen hcnt ⊢; omega
      register := fun _ => by simp [bitsValue]
      stopped := fun hstop => absurd (hrun.symm.trans hstop) Bool.false_ne_true
      bytes := by simp [Config.chunkBits] at hlen hcnt ⊢; omega }
  · exact {
      count := Nat.succ_pos 8
      lengths := nofun
      register := nofun
      stopped := fun _ => ⟨rfl, rfl⟩
      bytes := by simp [Config.chunkBits] at hlen hcnt ⊢; omega }

/-- A bit short of a chunk: with at most eight bits in it the register loses none. -/
theorem shift_keeps_chkInv {s : State} (b : Bool) (h : ChkInv s) (hrun : s.chkStop = false)
    (hcnt : s.chkCnt + 1 ≠ Config.chunkBits) :
    ChkInv { s with synBuf := s.synBuf ++ [b], chkSr := shiftIn s.chkSr b, chkCnt := s.chkCnt + 1 } := by
  have hlen := h.lengths hrun
  have hcount := h.count
  have hcnt' : s.chkCnt ≤ s.synBuf.length := by omega
  have hsr : s.chkSr.toNat < 256 := by
    rw [h.register hrun]
    refine (bitsValue_lt _).trans_le ?_
    rw [List.length_drop, Nat.sub_sub_self hcnt']
    exact Nat.pow_le_pow_right (n := 2) (j := 8) (by decide) (Nat.le_of_lt_succ hcount)
  have hlast := List.rtake_concat_succ s.synBuf s.chkCnt b
  unfold List.rtake at hlast
  exact {
    count := by dsimp only; omega
    lengths := fun _ => by simp only [List.length_append, List.length_singleton]; omega
    register := fun _ => by
      dsimp only
      rw [hlast, bitsValue_append, shiftIn_toNat b hsr, h.register hrun]
    stopped := fun hstop => absurd (hrun.symm.trans hstop) Bool.false_ne_true
    bytes := by simp only [List.length_append, List.length_singleton]; omega }

/-- `chk_step` of the bit just appended to `SYN_BUF` (41_synchronizer.md R124). -/
theorem chkStep_keeps_chkInv {s : State} (b : Bool) (h : ChkInv s) :
    ChkInv (chkStep { s with synBuf := s.synBuf ++ [b] } b) := by
  rcases chkStep_cases { s with synBuf := s.synBuf ++ [b] } b with
    ⟨hstop, heq⟩ | ⟨hrun, hcnt, heq⟩ | ⟨hrun, hcnt, heq⟩ <;> rw [heq]
  · have hbytes := h.bytes
    have hstopped := h.stopped hstop
    constructor <;> simp_all [Config.chunkBits]
    omega
  · exact chkGroup_keeps_chkInv h hrun hcnt _
  · exact shift_keeps_chkInv b h hrun hcnt

end Sys2Proof.Machine

/-! ## The invariant (10_state.md R39): the packet-initial state has it, and every step keeps it -/

namespace Sys2Proof.Machine

theorem pktInit_isS0 (s : State) : (pktInit s).isS0 := ⟨rfl, rfl, rfl, rfl, rfl, rfl, rfl, rfl, rfl, rfl, rfl⟩

/-- With every register 0 or empty each clause is immediate. -/
theorem regInv_of_isS0 {s : State} (h : s.isS0) : RegInv s := by
  obtain ⟨hon, hoff, hlen, hzc, hlocked, hbuf, hsr, hcnt, hstop, hbytes, hn⟩ := h
  constructor <;>
    simp [hon, hoff, hlen, hzc, hlocked, hbuf, hsr, hcnt, hstop, hbytes, hn, Config.chunkBits, bitsValue,
      samplesInProgress, idle_reachable]

/-- The invariant does not speak of `OUT`, the mark or the waiting operations. -/
theorem RegInv.of_sameBlock {s t : State} (h : RegInv s) (hsame : sameBlock s t) : RegInv t := by
  obtain ⟨o, r, n, rfl⟩ := sameBlock_iff.1 hsame
  exact { h with }

theorem Inv.of_sameBlock {s t : State} (h : Inv s) (hsame : sameBlock s t) : Inv t := by
  have hregs := fun hr => (h.regs hr).of_sameBlock hsame
  obtain ⟨o, r, n, rfl⟩ := sameBlock_iff.1 hsame
  exact ⟨h.thresholds, hregs⟩

/-- A sample that is paid for keeps the registers within the invariant. -/
theorem countSample_keeps_regInv {s : State} {on off : Nat} (h : RegInv s)
    (hpair : (on, off) ∈ reachablePairs s.cfg.clsCheck)
    (hcost : samplesInProgress s.cfg.clsCheck on off ≤ samplesInProgress s.cfg.clsCheck s.clsOn s.clsOff + 1)
    (hcap : s.pktN < s.cfg.sampleCap) : RegInv (countSample s on off) :=
  have hdensity := h.density
  { h with
    clsPair := hpair
    density := by dsimp only [countSample]; omega
    capacity := hcap }

/-- Candidate close leaves the candidate registers at their reset values. -/
theorem closeWith_keeps_regInv {s : State} (h : RegInv s) (bytes : List Byte) (w : ResultWord) :
    RegInv (closeWith s bytes w) := by
  have hdensity := h.density
  constructor <;> simp [h.clsPair, h.capacity, Config.chunkBits, bitsValue]
  omega

/-- The samples of the packet leave room for one more synced bit. -/
def roomForBit (s : State) : Prop :=
  samplesPerSymbol s.cfg.clsCheck * (s.synBuf.length + 1)
    + samplesInProgress s.cfg.clsCheck s.clsOn s.clsOff ≤ s.pktN

/-- A bit of a locked candidate (41_synchronizer.md R124). -/
theorem lockedBit_keeps_regInv {s : State} (b : Bool) (h : RegInv s) (hlocked : s.synLocked = true)
    (hcand : s.candLen ≤ s.cfg.minSymbols → s.synBuf.length < s.candLen) (hroom : roomForBit s) :
    RegInv (chkStep { s with synBuf := s.synBuf ++ [b] } b) :=
  have hchk := chkStep_keeps_chkInv b h.chkInv
  { candLenRange := by simpa using h.candLenRange
    synZcRange := by simpa using h.synZcRange
    chkCntRange := hchk.count
    unlocked := by simp [hlocked]
    lockedZc := by simpa using h.lockedZc
    chunkLength := hchk.lengths
    shiftRegister := hchk.register
    stopped := hchk.stopped
    candLenBound := by simpa using hcand
    clsPair := by simpa using h.clsPair
    density := by simpa [roomForBit] using hroom
    bytesBound := hchk.bytes
    capacity := by simpa using h.capacity }

theorem synStep_keeps_regInv {s : State} (b : Bool) (h : RegInv s)
    (hcand : s.candLen ≤ s.cfg.minSymbols → s.synBuf.length < s.candLen) (hroom : roomForBit s) :
    RegInv (synStep s b) := by
  rcases synStep_cases s b with ⟨hl, heq⟩ | ⟨hl, -, heq⟩ | ⟨hl, -, -, heq⟩ | ⟨hl, -, -, heq⟩ <;> rw [heq]
  · exact lockedBit_keeps_regInv b h hl hcand hroom
  · exact { h with
      synZcRange := Nat.min_le_right _ _
      lockedZc := fun hl' => absurd (hl.symm.trans hl') Bool.false_ne_true }
  · exact { h with synZcRange := Nat.zero_le _, unlocked := nofun, lockedZc := fun _ => rfl }
  · exact { h with synZcRange := Nat.zero_le _, lockedZc := fun _ => rfl }

/-- `symbol_in` counts the symbol before SYN sees it, so the candidate is longer than its synced bits
(40_classifier.md R110, 10_state.md R39 (e)). -/
theorem symbolIn_keeps_regInv {s : State} (b : Bool) (h : RegInv s) (hroom : roomForBit s) :
    RegInv (symbolIn s b) := by
  have hbound := h.candLenBound
  refine synStep_keeps_regInv b { h with
    candLenRange := Nat.min_le_right _ _
    candLenBound := ?_ } ?_ hroom <;> dsimp only <;> omega

/-- Routing what CLS emitted, when the samples pay for the bit it may add. -/
theorem routeSymbol_keeps_regInv {s : State} (y : Option Symbol) (h : RegInv s)
    (hroom : ∀ b, y = some (.bit b) → roomForBit s) : RegInv (routeSymbol s y) := by
  match y with
  | none => exact h
  | some (.bit b) => exact symbolIn_keeps_regInv b h (hroom b rfl)
  | some .brk => exact closeWith_keeps_regInv h _ _

/-- An accepted sample: CLS pays for what it emits, so the invariant is kept. -/
theorem sample_keeps_regInv {s : State} {x : Bool} {on off : Nat} {y : Option Symbol}
    (hp : s.cfg.atDefaults) (h : RegInv s) (hcap : s.pktN < s.cfg.sampleCap)
    (hstep : clsStep s.cfg s.clsOn s.clsOff x = some (on, off, y)) :
    RegInv (routeSymbol (countSample s on off) y) := by
  obtain ⟨r, hr, hpair, hpaid⟩ := clsStep_of_reachable hp h.clsPair x
  obtain rfl : r = (on, off, y) := Option.some.inj (hr.symm.trans hstep)
  have hdensity := h.density
  dsimp only at hpair hpaid
  refine routeSymbol_keeps_regInv y (countSample_keeps_regInv h hpair (by omega) hcap) ?_
  rintro b rfl
  simp only [Option.toList, countBits, roomForBit, countSample, Nat.mul_add] at hpaid ⊢
  omega

/-- Whatever an instruction does, it keeps the invariant. -/
theorem Effect.keeps_inv {i : Instr} {s t : State} (heff : Effect s i t) (h : Inv s) : Inv t := by
  refine ⟨heff.cfg_eq ▸ h.thresholds, fun hready => ?_⟩
  cases heff with
  | refused due => exact (h.regs hready).of_sameBlock rfl
  | sampled accepts classified =>
    exact sample_keeps_regInv h.thresholds (h.regs accepts.1) accepts.2 classified
  | ended ready => exact regInv_of_isS0 (pktInit_isS0 _)
  | reset => exact regInv_of_isS0 (pktInit_isS0 s)
  | closed byte =>
    exact closeWith_keeps_regInv (h.regs (by simpa [closeWithCommand] using hready)) _ _

/-- Settles O50: a step waits or executes an instruction, and every effect of an instruction keeps `Inv`. -/
theorem everyStepKeepsTheInvariant : Obligations.EveryStepKeepsTheInvariant := by
  intro s t h hstep
  rcases step_next hstep with ⟨-, rfl⟩ | ⟨o, rest, -, hexec⟩
  · exact h
  · exact (effect_of_exec hexec).keeps_inv (h.of_sameBlock rfl)

/-- Settles O51: `State.reset` is packet-initial, at the default thresholds. -/
theorem resetStateHasTheInvariant : Obligations.ResetStateHasTheInvariant :=
  ⟨⟨rfl, rfl, rfl, rfl⟩, fun _ => regInv_of_isS0 (pktInit_isS0 State.reset)⟩

/-- Settles O53: each synced bit cost its samples, of which there are at most `P_SAMPLE_CAP`, and each byte
nine synced bits. -/
theorem buffersStayWithinTheirCapacity : Obligations.BuffersStayWithinTheirCapacity := by
  intro s h hready
  have hregs := h.regs hready
  have hsyn : s.synBuf.length ≤ s.cfg.sampleCap / samplesPerSymbol s.cfg.clsCheck := by
    have hpos : 0 < samplesPerSymbol s.cfg.clsCheck := by cases s.cfg.clsCheck <;> decide
    have hdensity := hregs.density
    have hcap := hregs.capacity
    rw [Nat.le_div_iff_mul_le hpos, Nat.mul_comm]
    omega
  have hbytes : s.chkBuf.length ≤ s.synBuf.length / 9 := by
    rw [Nat.le_div_iff_mul_le (by decide), Nat.mul_comm]
    exact hregs.bytesBound
  exact ⟨hsyn, hbytes.trans (Nat.div_le_div_right hsyn)⟩

/-- Settles O55: `SYN_BUF` and `OUT` are empty in `State.reset`. -/
theorem resetStateHasItsRecordsDecoded : Obligations.ResetStateHasItsRecordsDecoded :=
  ⟨⟨rfl, rfl, rfl, rfl⟩, fun _ hmem => absurd hmem List.not_mem_nil⟩

end Sys2Proof.Machine

/-! ## Waiting, and the nine bits of a chunk (20_memory.md R51, R57) -/

namespace Sys2Proof.Machine

/-- Settles O5: with nothing to fetch the block waits. -/
theorem stepWithNoOperationHoldsTheState : Obligations.StepWithNoOperationHoldsTheState := by
  intro s hnone
  rcases fetch_cases s with ⟨-, hfetch⟩ | ⟨o, rest, hsome, -⟩
  · rw [step, hfetch]
  · exact absurd (hsome.symm.trans hnone) (List.cons_ne_nil o rest)

/-- The end of a group overwrites the shift register and the count, so their values before it do not matter. -/
theorem chkGroup_of_shifted (s : State) (sr' sr : Chunk) (n : Nat) :
    chkGroup { s with chkSr := sr', chkCnt := n } sr = chkGroup s sr := by
  unfold chkGroup; split <;> rfl

/-- The bits that fill the group in progress are shifted in, and the last of them ends it (42_chunker.md R130). -/
theorem foldl_chkStep_fills_group (w : List Bool) {s : State} (hrun : s.chkStop = false)
    (hcnt : s.chkCnt < Config.chunkBits) (hfull : s.chkCnt + w.length = Config.chunkBits) :
    w.foldl chkStep s = chkGroup s (w.foldl shiftIn s.chkSr) := by
  induction w generalizing s with
  | nil => exact absurd hfull hcnt.ne
  | cons b w ih =>
    rw [List.length_cons] at hfull
    rw [List.foldl_cons, List.foldl_cons]
    rcases chkStep_cases s b with ⟨hstop, -⟩ | ⟨-, hlast, heq⟩ | ⟨-, hmore, heq⟩
    · exact absurd (hrun.symm.trans hstop) Bool.false_ne_true
    · obtain rfl : w = [] := List.eq_nil_of_length_eq_zero (by omega)
      exact heq
    · have hcnt' : s.chkCnt + 1 < Config.chunkBits := by omega
      have hfull' : s.chkCnt + 1 + w.length = Config.chunkBits := by omega
      rw [heq, ih, chkGroup_of_shifted]
      exacts [hrun, hcnt', hfull']

theorem shiftIn_getLsbD_zero (sr : Chunk) (b : Bool) : (shiftIn sr b).getLsbD 0 = b := by
  simp [shiftIn]

theorem shiftIn_getLsbD_succ (sr : Chunk) (b : Bool) {i : Nat} (h : i + 1 < 9) :
    (shiftIn sr b).getLsbD (i + 1) = sr.getLsbD i := by
  simp [shiftIn, h, BitVec.getLsbD_eq_getElem (Nat.lt_of_succ_lt h)]

/-- The bit shifted in last is bit 0 (10_state.md R39 (c)). -/
theorem getLsbD_foldl_shiftIn (w : List Bool) {i : Nat} (h : i < 9) :
    (w.foldl shiftIn 0#9).getLsbD i = w.reverse.getD i false := by
  induction w using List.reverseRecOn generalizing i with
  | nil => simp
  | append_singleton w b ih =>
    rw [List.foldl_concat, List.reverse_concat]
    cases i with
    | zero => exact shiftIn_getLsbD_zero _ b
    | succ i => rw [shiftIn_getLsbD_succ _ b h, ih (by omega), List.getD_cons_succ]

/-- The popcount of a chunk counts the 1 bits received (00_scope.md R11). -/
theorem popcount_foldl_shiftIn {w : List Bool} (h : w.length = 9) :
    popcount (w.foldl shiftIn 0#9) = w.count true := by
  have hbits : (List.range 9).map (w.foldl shiftIn 0#9).getLsbD = w.reverse := by
    refine List.ext_getElem (by simp [h]) fun i hi _ => ?_
    have hi : i < 9 := by simpa using hi
    rw [List.getElem_map, List.getElem_range, getLsbD_foldl_shiftIn w hi, List.getD_eq_getElem]
  calc popcount (w.foldl shiftIn 0#9)
      = ((List.range 9).map (w.foldl shiftIn 0#9).getLsbD).count true := by
        rw [popcount, ← List.countP_eq_length_filter, List.count, List.countP_map]
        simp [Function.comp_def, Config.chunkBits]
    _ = w.count true := by rw [hbits, List.count_reverse]

theorem count_true_mod_two (w : List Bool) : w.count true % 2 = (w.foldl xor false).toNat := by
  induction w using List.reverseRecOn with
  | nil => rfl
  | append_singleton w b ih =>
    rw [List.count_append, List.foldl_concat, Nat.add_mod, ih]
    cases w.foldl xor false <;> cases b <;> rfl

/-- The parity bit is the xor of the data bits, so it makes the parity even (30_encoding.md R65). -/
theorem evenParity_chunkBitsOf (v : Byte) : evenParity ((chunkBitsOf v).foldl shiftIn 0#9) = true := by
  have hxor : (chunkBitsOf v).foldl xor false = false := by simp [chunkBitsOf]
  rw [evenParity_eq_true, popcount_foldl_shiftIn rfl, count_true_mod_two, hxor, Bool.toNat_false]

/-- The first bit received is bit 7, and the parity bit is dropped (20_memory.md R51, 42_chunker.md R132). -/
theorem chunkByte_chunkBitsOf (v : Byte) : chunkByte ((chunkBitsOf v).foldl shiftIn 0#9) = v := by
  apply BitVec.eq_of_getLsbD_eq
  intro i hi
  have hbit : (chunkByte ((chunkBitsOf v).foldl shiftIn 0#9)).getLsbD i
      = (chunkBitsOf v).reverse.getD (1 + i) false := by
    simp [chunkByte, hi, getLsbD_foldl_shiftIn _ (show 1 + i < 9 by omega)]
  rw [hbit]
  interval_cases i <;> rfl

/-- Settles O25: the nine bits fill one group, whose parity is even and whose byte is `v`. -/
theorem aValidChunkAppendsItsByte : Obligations.AValidChunkAppendsItsByte := by
  intro s v hrun hsr hcnt
  have hfold : (chunkBitsOf v).foldl chkStep s = chkGroup s ((chunkBitsOf v).foldl shiftIn 0#9) := by
    rw [foldl_chkStep_fills_group _ hrun (by rw [hcnt]; decide) (by rw [hcnt]; rfl), hsr]
  rw [hfold, chkGroup, if_pos (evenParity_chunkBitsOf v), chunkByte_chunkBitsOf]
  cases s
  subst hsr hcnt
  rfl

end Sys2Proof.Machine

/-! ## The encoder and the decoder are inverse (30_encoding.md R60 to R62, R67) -/

namespace Sys2Proof.Machine

/-! The fields of a command byte read back, and the byte put together from its fields. -/

@[simp] theorem cmdNibble_commandByte (top : BitVec 2) (ext b4 : Bool) (cmd : BitVec 4) :
    cmdNibble (commandByte top ext b4 cmd) = cmd :=
  BitVec.extractLsb'_append_eq_right

@[simp] theorem cmdBit4_commandByte (top : BitVec 2) (ext b4 : Bool) (cmd : BitVec 4) :
    cmdBit4 (commandByte top ext b4 cmd) = b4 := by
  simp only [cmdBit4, commandByte, BitVec.getLsbD_append]
  simp

@[simp] theorem cmdExt_commandByte (top : BitVec 2) (ext b4 : Bool) (cmd : BitVec 4) :
    cmdExt (commandByte top ext b4 cmd) = ext := by
  simp only [cmdExt, Config.extBit, commandByte, BitVec.getLsbD_append]
  simp

@[simp] theorem cmdTop_commandByte (top : BitVec 2) (ext b4 : Bool) (cmd : BitVec 4) :
    cmdTop (commandByte top ext b4 cmd) = top := by
  apply BitVec.eq_of_getLsbD_eq
  intro i hi
  simp only [cmdTop, commandByte, BitVec.getLsbD_extractLsb', BitVec.getLsbD_append]
  interval_cases i <;> simp

theorem commandByte_fields (c : Byte) : commandByte (cmdTop c) (cmdExt c) (cmdBit4 c) (cmdNibble c) = c := by
  apply BitVec.eq_of_getLsbD_eq
  intro i hi
  simp only [commandByte, cmdTop, cmdExt, cmdBit4, cmdNibble, Config.extBit, BitVec.getLsbD_append,
    BitVec.getLsbD_extractLsb', BitVec.getLsbD_ofBool]
  interval_cases i <;> simp

/-- What the command dispatch reads from a byte (30_encoding.md R67). -/
theorem decodeCommand_cases (c : Byte) :
    (cmdNibble c = Config.cmdOpenTo ∧ decodeCommand c = .openTo (cmdTop c) (cmdExt c) (cmdBit4 c)) ∨
      (cmdNibble c = Config.cmdSync ∧ decodeCommand c = .sync (cmdTop c) (cmdExt c) (cmdBit4 c)) ∨
      (cmdNibble c ≠ Config.cmdOpenTo ∧ cmdNibble c ≠ Config.cmdSync ∧
        decodeCommand c = .unknownCommand (cmdTop c) (cmdExt c) (cmdBit4 c) (cmdNibble c)) := by
  unfold decodeCommand
  split_ifs <;> simp_all

theorem wf_unknownCommand {top : BitVec 2} {ext b4 : Bool} {cmd : BitVec 4} :
    (Instr.unknownCommand top ext b4 cmd).wf = true ↔ cmd ≠ Config.cmdOpenTo ∧ cmd ≠ Config.cmdSync := by
  simp [Instr.wf]

/-- Settles O2: a command byte's fields read back, and the nibble alone chooses the row. -/
theorem decodeOfEncodeIsTheInstruction : Obligations.DecodeOfEncodeIsTheInstruction := by
  intro i hwf
  cases i with
  | sampleOff | sampleOn | endPacket | reservedOp | reset => rfl
  | openTo top ext b4 => simp [encode, decode, decodeCommand]
  | sync top ext b4 =>
    have hne : Config.cmdSync ≠ Config.cmdOpenTo := by decide
    simp [encode, decode, decodeCommand, hne]
  | unknownCommand top ext b4 cmd =>
    obtain ⟨hopen, hsync⟩ := wf_unknownCommand.1 hwf
    simp [encode, decode, decodeCommand, hopen, hsync]

theorem encode_decodeCommand (c : Byte) :
    (decodeCommand c).wf = true ∧ encode (decodeCommand c) = .command c := by
  have hbyte := commandByte_fields c
  rcases decodeCommand_cases c with ⟨hn, heq⟩ | ⟨hn, heq⟩ | ⟨hopen, hsync, heq⟩ <;> rw [heq]
  · exact ⟨rfl, by rw [encode, ← hn, hbyte]⟩
  · exact ⟨rfl, by rw [encode, ← hn, hbyte]⟩
  · exact ⟨wf_unknownCommand.2 ⟨hopen, hsync⟩, by rw [encode, hbyte]⟩

theorem encode_decodeHost (o : HostOp) : (decodeHost o).wf = true ∧ encode (decodeHost o) = .host o := by
  cases o with
  | word op =>
    have words : ∀ op : OpWord, (decodeOp op).wf = true ∧ encode (decodeOp op) = .host (.word op) := by decide
    exact words op
  | resetInput => exact ⟨rfl, rfl⟩

/-- Settles O3: by format, the four input words and RESET one by one, a command byte from its fields. -/
theorem encodeOfDecodeIsTheWord : Obligations.EncodeOfDecodeIsTheWord := by
  intro w
  cases w with
  | host o => exact encode_decodeHost o
  | command c => exact encode_decodeCommand c

/-- Settles O1: the decoders run on the words of the table. -/
theorem tableWordsDecodeToTheirInstructions : Obligations.TableWordsDecodeToTheirInstructions := by
  unfold Obligations.TableWordsDecodeToTheirInstructions
  decide

end Sys2Proof.Machine

/-! ## Which RESULT words DEC answers (30_encoding.md R71, R72) -/

namespace Sys2Proof.Machine

/-- DEC answers a rejection, or the fields of the frame with its command (43_decoder.md R140, R149). -/
theorem decodeFrame_cases (bytes : List Byte) :
    (∃ st, st ≠ .ok ∧ decodeFrame bytes = rejWord st) ∨ (∃ cmd, decodeFrame bytes = okWord bytes cmd) := by
  rcases decodeWith_cases commandWord bytes with ⟨-, h⟩ | ⟨-, -, h⟩ | ⟨-, -, h⟩
  · exact .inl ⟨.rejShort, nofun, h⟩
  · exact .inl ⟨.rejChecksum, nofun, h⟩
  · rcases commandWord_cases bytes with ⟨-, hk⟩ | ⟨-, hk⟩ | ⟨-, -, hk⟩
    · exact .inr ⟨_, h.trans hk⟩
    · exact .inr ⟨_, h.trans hk⟩
    · exact .inl ⟨.rejUnknownCmd, nofun, h.trans hk⟩

@[simp] theorem statusField_resultWord (st : Status) (k : BitVec 1) (h1 h2 a p : Byte) :
    statusField (resultWord st k h1 h2 a p) = statusCode st :=
  (resultWord_fields st k h1 h2 a p).1

theorem statusCode_le (st : Status) : (statusCode st).toNat ≤ 3 := by
  cases st <;> decide

/-- A RESULT word of either kind keeps to the layout's zeros. -/
theorem resultWord_reserved (st : Status) (k : BitVec 1) (h1 h2 a p : Byte) :
    (resultWord st k h1 h2 a p).extractLsb' 32 4 = 0#4 :=
  (resultWord_fields st k h1 h2 a p).2.2.1

theorem rejWord_low (st : Status) : (rejWord st).extractLsb' 0 37 = 0#37 := by
  cases st <;> decide

/-- Settles O34: a rejection has only its STATUS, and an OK word the code 000. -/
theorem everyResultWordIsWellFormed : Obligations.EveryResultWordIsWellFormed := by
  intro bytes
  rcases decodeFrame_cases bytes with ⟨st, -, h⟩ | ⟨cmd, h⟩ <;> rw [h]
  · refine ⟨?_, resultWord_reserved .., fun _ => rejWord_low st⟩
    rw [rejWord, statusField_resultWord]
    exact statusCode_le st
  · have hok : statusField (okWord bytes cmd) = 0#3 := statusField_resultWord ..
    exact ⟨by rw [hok]; decide, resultWord_reserved .., fun hne => absurd hok hne⟩

end Sys2Proof.Machine

/-! ## CHK over a synced sequence is the batch Chunk (42_chunker.md R134) -/

namespace Sys2Proof.Machine

/-! A group of nine bits: the shift register holds its value, and its byte is the value without the parity
bit. -/

theorem foldl_shiftIn_toNat {w : List Bool} (h : w.length ≤ 9) : (w.foldl shiftIn 0#9).toNat = bitsValue w := by
  induction w using List.reverseRecOn with
  | nil => rfl
  | append_singleton w b ih =>
    rw [List.length_append, List.length_singleton] at h
    have hval : (w.foldl shiftIn 0#9).toNat = bitsValue w := ih (Nat.le_of_succ_le h)
    have hlt : bitsValue w < 256 :=
      (bitsValue_lt w).trans_le (Nat.pow_le_pow_right (n := 2) (j := 8) (by decide) (Nat.le_of_succ_le_succ h))
    rw [List.foldl_concat, bitsValue_append, shiftIn_toNat b (hval ▸ hlt), hval]

theorem chunkByte_toNat (sr : Chunk) : (chunkByte sr).toNat = sr.toNat / 2 := by
  have hlt := sr.isLt
  rw [chunkByte, BitVec.extractLsb'_toNat, Nat.shiftRight_eq_div_pow]
  omega

/-- The weights of R134 read the eight data bits most-significant first. -/
theorem groupByte_toNat {g : List Bool} (h : g.length = 9) : (groupByte g).toNat = bitsValue g / 2 := by
  match g, h with
  | [b0, b1, b2, b3, b4, b5, b6, b7, b8], _ =>
    have h0 := b0.toNat_le; have h1 := b1.toNat_le; have h2 := b2.toNat_le; have h3 := b3.toNat_le
    have h4 := b4.toNat_le; have h5 := b5.toNat_le; have h6 := b6.toNat_le; have h7 := b7.toNat_le
    have h8 := b8.toNat_le
    simp [groupByte, List.range_succ, bitsValue]
    omega

/-- The byte CHK keeps of a group is the batch description's (42_chunker.md R132, R134). -/
theorem chunkByte_foldl_shiftIn {g : List Bool} (h : g.length = 9) :
    chunkByte (g.foldl shiftIn 0#9) = groupByte g := by
  apply BitVec.eq_of_toNat_eq
  rw [chunkByte_toNat, foldl_shiftIn_toNat h.le, groupByte_toNat h]

theorem evenParity_foldl_shiftIn {g : List Bool} (h : g.length = 9) :
    evenParity (g.foldl shiftIn 0#9) = true ↔ g.count true % 2 = 0 := by
  rw [evenParity_eq_true, popcount_foldl_shiftIn h]

/-! The batch Chunk, group by group. -/

theorem chunkOf_of_short {y : List Bool} (h : y.length < 9) : chunkOf y = [] := by
  rw [chunkOf, show y.length / Config.chunkBits = 0 from Nat.div_eq_of_lt h, chunkGroups]

theorem chunkOf_append {g : List Bool} (h : g.length = 9) (y : List Bool) :
    chunkOf (g ++ y) = if g.count true % 2 = 0 then groupByte g :: chunkOf y else [] := by
  have hlen : (g ++ y).length / Config.chunkBits = y.length / Config.chunkBits + 1 := by
    rw [List.length_append, h, Nat.add_comm]
    exact Nat.add_div_right _ (by decide)
  have htake : (g ++ y).take Config.chunkBits = g := List.take_left' h
  have hdrop : (g ++ y).drop Config.chunkBits = y := List.drop_left' h
  rw [chunkOf, hlen, chunkGroups, htake, hdrop, chunkOf]

/-- Induction over a bit sequence by complete groups of nine (42_chunker.md R130). -/
theorem group_induction {P : List Bool → Prop} (short : ∀ y, y.length < 9 → P y)
    (group : ∀ g y, g.length = 9 → P y → P (g ++ y)) (y : List Bool) : P y := by
  induction hn : y.length using Nat.strong_induction_on generalizing y with
  | _ n ih =>
    by_cases hlt : y.length < 9
    · exact short y hlt
    · have hrest : P (y.drop 9) := ih (y.drop 9).length (by rw [List.length_drop]; omega) _ rfl
      have htake : (y.take 9).length = 9 := by rw [List.length_take]; omega
      exact List.take_append_drop 9 y ▸ group _ _ htake hrest

/-! `chk_step` over a sequence. -/

theorem foldl_chkStep_of_stopped (y : List Bool) {s : State} (h : s.chkStop = true) : y.foldl chkStep s = s := by
  induction y with
  | nil => rfl
  | cons b y ih => rw [List.foldl_cons, chkStep, if_pos h, ih]

/-- Bits that do not fill the group in progress leave the bytes alone. -/
theorem foldl_chkStep_of_short (y : List Bool) {s : State} (hrun : s.chkStop = false)
    (hshort : s.chkCnt + y.length < Config.chunkBits) :
    y.foldl chkStep s = { s with chkSr := y.foldl shiftIn s.chkSr, chkCnt := s.chkCnt + y.length } := by
  induction y generalizing s with
  | nil => rfl
  | cons b y ih =>
    rw [List.length_cons] at hshort
    rcases chkStep_cases s b with ⟨hstop, -⟩ | ⟨-, hlast, -⟩ | ⟨-, -, heq⟩
    · exact absurd (hrun.symm.trans hstop) Bool.false_ne_true
    · omega
    · have hshort' : s.chkCnt + 1 + y.length < Config.chunkBits := by omega
      rw [List.foldl_cons, heq, ih (s := { s with chkSr := shiftIn s.chkSr b, chkCnt := s.chkCnt + 1 }) hrun hshort',
        List.foldl_cons, List.length_cons, Nat.add_assoc, Nat.add_comm 1]

/-- CHK between chunks and not stopped (42_chunker.md R131). -/
structure ChkIdle (s : State) : Prop where
  running : s.chkStop = false
  register : s.chkSr = 0#9
  count : s.chkCnt = 0

theorem clearCandidate_chkIdle (s : State) : ChkIdle (clearCandidate s) := ⟨rfl, rfl, rfl⟩

/-- A complete group from idle (42_chunker.md R130). -/
theorem ChkIdle.foldl_group {s : State} (h : ChkIdle s) {g : List Bool} (hg : g.length = 9) :
    g.foldl chkStep s = chkGroup s (g.foldl shiftIn 0#9) := by
  rw [← h.register]
  exact foldl_chkStep_fills_group g h.running (by rw [h.count]; decide) (by rw [h.count, hg]; rfl)

/-- A group of even parity adds its byte and leaves CHK idle (42_chunker.md R132). -/
theorem ChkIdle.chkGroup_even {s : State} (h : ChkIdle s) {sr : Chunk} (he : evenParity sr = true) :
    ChkIdle (chkGroup s sr) ∧ (chkGroup s sr).chkBuf = s.chkBuf ++ [chunkByte sr] := by
  rw [chkGroup, if_pos he]
  exact ⟨⟨h.running, rfl, rfl⟩, rfl⟩

/-- A group of odd parity stops CHK with the bytes before it (42_chunker.md R133). -/
theorem chkGroup_odd (s : State) {sr : Chunk} (ho : ¬ evenParity sr = true) :
    (chkGroup s sr).chkStop = true ∧ (chkGroup s sr).chkBuf = s.chkBuf := by
  rw [chkGroup, if_neg ho]
  exact ⟨rfl, rfl⟩

/-- From idle, CHK appends the batch Chunk of what it is given. -/
theorem ChkIdle.foldl_chkBuf (y : List Bool) {s : State} (h : ChkIdle s) :
    (y.foldl chkStep s).chkBuf = s.chkBuf ++ chunkOf y := by
  induction y using group_induction generalizing s with
  | short y hy =>
    have hfold := foldl_chkStep_of_short y h.running (by rw [h.count, Nat.zero_add]; exact hy)
    rw [hfold, chunkOf_of_short hy, List.append_nil]
  | group g y hg ih =>
    rw [List.foldl_append, h.foldl_group hg, chunkOf_append hg]
    by_cases he : g.count true % 2 = 0
    · obtain ⟨hidle, hbuf⟩ := h.chkGroup_even ((evenParity_foldl_shiftIn hg).2 he)
      rw [ih hidle, hbuf, chunkByte_foldl_shiftIn hg, if_pos he, List.append_assoc, List.singleton_append]
    · obtain ⟨hstop, hbuf⟩ := chkGroup_odd s (mt (evenParity_foldl_shiftIn hg).1 he)
      rw [foldl_chkStep_of_stopped y hstop, hbuf, if_neg he, List.append_nil]

end Sys2Proof.Machine

/-! ## The records of OUT are decoded from their synced bits (30_encoding.md R70, 44_packet_control.md R161) -/

namespace Sys2Proof.Machine

/-- The CHK registers, all that `chk_step` reads and writes (10_state.md R29, R30). -/
def chkRegs (s : State) : Chunk × Nat × Bool × List Byte := (s.chkSr, s.chkCnt, s.chkStop, s.chkBuf)

theorem chkRegs_chkStep {s t : State} (h : chkRegs s = chkRegs t) (b : Bool) :
    chkRegs (chkStep s b) = chkRegs (chkStep t b) := by
  simp only [chkRegs, Prod.mk.injEq] at h
  obtain ⟨hsr, hcnt, hstop, hbuf⟩ := h
  simp only [chkStep, chkGroup, hsr, hcnt, hstop, hbuf]
  split_ifs <;> simp [chkRegs, hsr, hcnt, hstop, hbuf]

theorem chkRegs_foldl {s t : State} (h : chkRegs s = chkRegs t) (y : List Bool) :
    chkRegs (y.foldl chkStep s) = chkRegs (y.foldl chkStep t) := by
  induction y generalizing s t with
  | nil => exact h
  | cons b y ih => exact ih (chkRegs_chkStep h b)

/-- From whatever state the reset values are taken: `chk_step` reads the CHK registers only. -/
theorem chkAgrees_iff (s u : State) :
    chkAgrees s ↔ chkRegs s = chkRegs (s.synBuf.foldl chkStep (clearCandidate u)) := by
  have hstart : chkRegs (clearCandidate s) = chkRegs (clearCandidate u) := rfl
  rw [← chkRegs_foldl hstart]
  simp only [chkAgrees, chkRegs, Prod.mk.injEq]

/-- Two states alike in `SYN_BUF` and the CHK registers. -/
theorem chkAgrees_congr {s t : State} (h : chkAgrees s) (hbuf : t.synBuf = s.synBuf)
    (hregs : chkRegs t = chkRegs s) : chkAgrees t := by
  rw [chkAgrees_iff t s, hbuf, hregs]
  exact (chkAgrees_iff s s).1 h

theorem chkAgrees_clearCandidate (s : State) : chkAgrees (clearCandidate s) :=
  (chkAgrees_iff _ s).2 rfl

/-- The bit appended to `SYN_BUF` is passed to CHK (41_synchronizer.md R124). -/
theorem chkAgrees_lockedBit {s : State} (h : chkAgrees s) (b : Bool) :
    chkAgrees (chkStep { s with synBuf := s.synBuf ++ [b] } b) := by
  have hbefore : chkRegs { s with synBuf := s.synBuf ++ [b] }
      = chkRegs (s.synBuf.foldl chkStep (clearCandidate s)) := (chkAgrees_iff s s).1 h
  rw [chkAgrees_iff _ s, chkStep_synBuf, List.foldl_concat]
  exact chkRegs_chkStep hbefore b

theorem synStep_keeps_chkAgrees {s : State} (h : chkAgrees s) (b : Bool) : chkAgrees (synStep s b) := by
  rcases synStep_cases s b with ⟨-, heq⟩ | ⟨-, -, heq⟩ | ⟨-, -, -, heq⟩ | ⟨-, -, -, heq⟩ <;> rw [heq]
  · exact chkAgrees_lockedBit h b
  · exact chkAgrees_congr h rfl rfl
  · exact chkAgrees_congr h rfl rfl
  · exact chkAgrees_congr h rfl rfl

/-- What `EveryStepKeepsTheRecordsDecoded` keeps. -/
structure Decoded (s : State) : Prop where
  chk : chkAgrees s
  records : ∀ r ∈ s.out, recordAgrees r

/-- Where the CHK registers agree, `CHK_BUF` is `Chunk(SYN_BUF)`. -/
theorem chunkOf_synBuf {s : State} (h : chkAgrees s) : s.chkBuf = chunkOf s.synBuf := by
  obtain ⟨-, -, -, hbuf⟩ := h
  rw [hbuf, (clearCandidate_chkIdle s).foldl_chkBuf, clearCandidate_chkBuf, List.nil_append]

/-- Nothing else than `SYN_BUF`, the CHK registers and `OUT` matters. -/
theorem Decoded.congr {s t : State} (h : Decoded s) (hbuf : t.synBuf = s.synBuf)
    (hregs : chkRegs t = chkRegs s) (hout : t.out = s.out) : Decoded t :=
  ⟨chkAgrees_congr h.chk hbuf hregs, hout ▸ h.records⟩

theorem Decoded.emit {s : State} (h : Decoded s) {r : OutRecord} (hr : recordAgrees r) : Decoded (emit s r) where
  chk := chkAgrees_congr h.chk rfl rfl
  records := List.forall_mem_append.2 ⟨h.records, List.forall_mem_singleton.2 hr⟩

theorem Decoded.clearCandidate {s : State} (h : Decoded s) : Decoded (clearCandidate s) :=
  ⟨chkAgrees_clearCandidate s, h.records⟩

theorem Decoded.closeCandidate {s : State} (h : Decoded s) : Decoded (closeCandidate s) := by
  rcases closeWith_cases s s.chkBuf (decodeFrame s.chkBuf) with ⟨-, heq⟩ | ⟨-, heq⟩ <;>
    rw [Machine.closeCandidate, heq]
  · have hrecord : recordAgrees (.cand s.synBuf s.chkBuf (decodeFrame s.chkBuf)) := ⟨chunkOf_synBuf h.chk, rfl⟩
    exact (h.emit hrecord).clearCandidate
  · exact h.clearCandidate

theorem Decoded.pktInit {s : State} (h : Decoded s) : Decoded (pktInit s) :=
  h.clearCandidate.congr rfl rfl rfl

theorem Decoded.symbolIn {s : State} (h : Decoded s) (b : Bool) : Decoded (symbolIn s b) where
  chk :=
    have hcounted : chkAgrees { s with candLen := min (s.candLen + 1) (s.cfg.minSymbols + 1) } :=
      chkAgrees_congr h.chk rfl rfl
    synStep_keeps_chkAgrees hcounted b
  records := by rw [symbolIn_out]; exact h.records

theorem Decoded.routeSymbol {s : State} (h : Decoded s) (y : Option Symbol) : Decoded (routeSymbol s y) := by
  match y with
  | none => exact h
  | some (.bit b) => exact h.symbolIn b
  | some .brk => exact h.closeCandidate

/-- The host issues no command byte (30_encoding.md R61, R67). -/
theorem encode_decodeHost_ne_command (o : HostOp) (c : Byte) : encode (decodeHost o) ≠ .command c := by
  rw [(encode_decodeHost o).2]
  nofun

theorem Effect.keeps_decoded {o : HostOp} {s t : State} (heff : Effect s (decodeHost o) t) (h : Decoded s) :
    Decoded t := by
  generalize hi : decodeHost o = i at heff
  cases heff with
  | refused due => exact h.congr rfl rfl rfl
  | @sampled x on off sym accepts classified =>
    have hcount : Decoded (countSample s on off) := h.congr rfl rfl rfl
    exact hcount.routeSymbol sym
  | ended ready => exact (h.closeCandidate.emit (r := .eop) trivial).pktInit
  | reset => exact h.pktInit.congr rfl rfl rfl
  | closed byte => exact absurd (hi ▸ byte) (encode_decodeHost_ne_command o _)

/-- Settles O54: a step waits or executes an operation of the host, and a record is appended only by candidate
close, where `CHK_BUF` is `Chunk(SYN_BUF)`. -/
theorem everyStepKeepsTheRecordsDecoded : Obligations.EveryStepKeepsTheRecordsDecoded := by
  intro s t hchk hrecords hstep
  have h : Decoded s := ⟨hchk, hrecords⟩
  rcases step_next hstep with ⟨-, rfl⟩ | ⟨o, rest, -, hexec⟩
  · exact ⟨hchk, hrecords⟩
  · have hfetched : Decoded { s with input := rest } := h.congr rfl rfl rfl
    have hnext := (effect_of_exec hexec).keeps_decoded hfetched
    exact ⟨hnext.chk, hnext.records⟩

end Sys2Proof.Machine

/-! ## The sample shapes of bits, bytes and frames (30_encoding.md R74) -/

namespace Sys2Proof.Machine

theorem clsRun_cons {p : Params} {on off on' off' : Nat} {x : Bool} {y : Option Symbol} (w : List Bool)
    (h : clsStep p on off x = some (on', off', y)) :
    clsRun p on off (x :: w) = y.toList ++ clsRun p on' off' w := by
  rw [clsRun, h]

/-- An accepted sample that the classifier gives a meaning, at the head of a run (44_packet_control.md R162). -/
theorem runOps_samples_cons {s : State} {x : Bool} {on off : Nat} {y : Option Symbol} (w : List Bool)
    (haccepts : s.accepts) (hstep : clsStep s.cfg s.clsOn s.clsOff x = some (on, off, y)) :
    runOps (samples (x :: w)) s = runOps (samples w) (routeSymbol (countSample s on off) y) := by
  have hexec : exec (decodeHost (sampleOp x)) s = .next (routeSymbol (countSample s on off) y) := by
    rw [decodeHost_sampleOp]
    exact exec_of_effect (.sampled haccepts hstep)
  rw [samples, List.map_cons, runOps, hexec, samples]

/-- Samples in which the classifier emits nothing: they are counted and lead to the pair `(on', off')`. -/
inductive Quiet (p : Params) : Nat → Nat → List Bool → Nat → Nat → Prop
  | nil {on off : Nat} : Quiet p on off [] on off
  | cons {on off on₁ off₁ on' off' : Nat} {x : Bool} {w : List Bool}
      (step : clsStep p on off x = some (on₁, off₁, none)) (rest : Quiet p on₁ off₁ w on' off') :
      Quiet p on off (x :: w) on' off'

theorem Quiet.clsRun_append {p : Params} {on off on' off' : Nat} {w : List Bool} (h : Quiet p on off w on' off')
    (v : List Bool) : clsRun p on off (w ++ v) = clsRun p on' off' v := by
  induction h with
  | nil => rfl
  | cons step rest ih => rw [List.cons_append, clsRun_cons _ step, ih, Option.toList_none, List.nil_append]

/-- A quiet stretch within the capacity changes the count and the pair, nothing else. -/
theorem Quiet.runOps {p : Params} {on off on' off' : Nat} {w : List Bool} (h : Quiet p on off w on' off')
    {s : State} (hcfg : s.cfg = p) (hon : s.clsOn = on) (hoff : s.clsOff = off) (hready : s.ready = true)
    (hcap : s.pktN + w.length ≤ s.cfg.sampleCap) :
    runOps (samples w) s = .next { s with pktN := s.pktN + w.length, clsOn := on', clsOff := off' } := by
  induction h generalizing s with
  | nil => cases s; subst hon hoff; rfl
  | @cons on off on₁ off₁ on' off' x w step rest ih =>
    rw [List.length_cons] at hcap
    have haccepts : s.accepts := ⟨hready, by omega⟩
    have hstep : clsStep s.cfg s.clsOn s.clsOff x = some (on₁, off₁, none) := by rw [hcfg, hon, hoff, step]
    have hrest := ih (s := countSample s on₁ off₁) hcfg rfl rfl hready
      (show s.pktN + 1 + w.length ≤ s.cfg.sampleCap by omega)
    rw [runOps_samples_cons w haccepts hstep, routeSymbol, hrest, List.length_cons, Nat.add_comm w.length,
      ← Nat.add_assoc]
    rfl

theorem runOps_samples_append {w v : List Bool} {s t : State} (h : runOps (samples w) s = .next t) :
    runOps (samples (w ++ v)) s = runOps (samples v) t := by
  rw [samples, List.map_append]
  exact runOps_append h

/-! A bit's shape is a quiet stem and the off sample that emits the bit (40_classifier.md R107). -/

/-- The shape of a bit without its last sample. -/
def bitStem (b : Bool) : List Bool := if b then [true, true, true, false, false] else [true, true, false]

/-- The classifier pair the stem leads to. -/
def bitPair (b : Bool) : Nat × Nat := if b then (3, 2) else (2, 1)

theorem bitShape_eq (b : Bool) : bitShape b = bitStem b ++ [false] := by
  cases b <;> rfl

section
variable {p : Params} (hp : p.atDefaults) (hpre : p.clsCheck = .pre)
include hp hpre

theorem clsStep_of_pre (on off : Nat) (x : Bool) : clsStep p on off x = clsStep (defaultsFor .pre) on off x := by
  rw [clsStep_of_atDefaults hp, hpre]

theorem quiet_bitStem (b : Bool) {off : Nat} (hoff : off ≤ 1) :
    Quiet p 0 off (bitStem b) (bitPair b).1 (bitPair b).2 := by
  have hrow := clsStep_of_pre hp hpre
  have hfirst : clsStep p 0 off true = some (1, 0, none) := by
    rw [hrow]
    interval_cases off <;> rfl
  cases b with
  | false => exact .cons hfirst (.cons (hrow 1 0 true) (.cons (hrow 2 0 false) .nil))
  | true =>
    exact .cons hfirst (.cons (hrow 1 0 true) (.cons (hrow 2 0 true) (.cons (hrow 3 0 false)
      (.cons (hrow 3 1 false) .nil))))

theorem clsStep_bitPair (b : Bool) :
    clsStep p (bitPair b).1 (bitPair b).2 false = some (0, 0, some (.bit b)) := by
  rw [clsStep_of_pre hp hpre]
  cases b <;> rfl

/-- The shape of a bit from (0,0) emits the bit and returns there. -/
theorem clsRun_bitShape (b : Bool) (w : List Bool) :
    clsRun p 0 0 (bitShape b ++ w) = .bit b :: clsRun p 0 0 w := by
  rw [bitShape_eq, List.append_assoc, (quiet_bitStem hp hpre b (Nat.zero_le 1)).clsRun_append,
    List.singleton_append, clsRun_cons w (clsStep_bitPair hp hpre b)]
  rfl

theorem clsRun_bitShapes (bits : List Bool) : clsRun p 0 0 (bits.flatMap bitShape) = bits.map .bit := by
  induction bits with
  | nil => rfl
  | cons b bits ih => rw [List.flatMap_cons, clsRun_bitShape hp hpre, ih, List.map_cons]

end

/-- Settles O57: the stem is quiet, and the last off sample emits the bit from the pair it leads to. -/
theorem bitShapeEmitsItsSymbol : Obligations.BitShapeEmitsItsSymbol := by
  intro s b hready hp hpre hon hoff hcap
  rw [bitShape_eq, List.length_append, List.length_singleton] at hcap ⊢
  have hstem := (quiet_bitStem hp hpre b hoff).runOps rfl hon rfl hready (by omega)
  rw [runOps_samples_append hstem]
  exact runOps_samples_cons (s := { s with
      pktN := s.pktN + (bitStem b).length, clsOn := (bitPair b).1, clsOff := (bitPair b).2 })
    [] ⟨hready, by dsimp only; omega⟩ (clsStep_bitPair hp hpre b)

/-! A frame is the shapes of its bits: eight zeros, the sync marker's one, and the chunks. -/

/-- The bits of `FRAME(bytes)`: the lead-in, then a valid chunk per byte. -/
def frameBits (bytes : List Byte) : List Bool :=
  List.replicate 8 false ++ true :: bytes.flatMap chunkBitsOf

theorem frameShape_eq (bytes : List Byte) : frameShape bytes = (frameBits bytes).flatMap bitShape := by
  have hlead : leadIn 8 = (List.replicate 8 false ++ [true]).flatMap bitShape := by decide
  have hbytes : bytes.flatMap byteShape = (bytes.flatMap chunkBitsOf).flatMap bitShape := by
    rw [List.flatMap_assoc]
    rfl
  rw [frameShape, frameBits, hlead, hbytes, ← List.flatMap_append, List.append_assoc, List.singleton_append]

theorem length_flatMap_chunkBitsOf (bytes : List Byte) : (bytes.flatMap chunkBitsOf).length = 9 * bytes.length := by
  rw [List.length_flatMap, show (fun v => (chunkBitsOf v).length) = fun _ => 9 from rfl, List.map_const',
    List.sum_replicate, smul_eq_mul, Nat.mul_comm]

/-- The bits after the first `0 0 1` are the chunks (41_synchronizer.md R125). -/
theorem syncOf_frameBits (bytes : List Byte) : syncOf (frameBits bytes) = bytes.flatMap chunkBitsOf := by
  simp [frameBits, List.replicate_succ, syncOf]

/-- Valid chunks are chunked back to their bytes (42_chunker.md R134, 30_encoding.md R65). -/
theorem chunkOf_flatMap_chunkBitsOf (bytes : List Byte) : chunkOf (bytes.flatMap chunkBitsOf) = bytes := by
  induction bytes with
  | nil => rfl
  | cons v bytes ih =>
    have hlen : (chunkBitsOf v).length = 9 := rfl
    have heven : (chunkBitsOf v).count true % 2 = 0 :=
      (evenParity_foldl_shiftIn hlen).1 (evenParity_chunkBitsOf v)
    have hbyte : groupByte (chunkBitsOf v) = v := by
      rw [← chunkByte_foldl_shiftIn hlen, chunkByte_chunkBitsOf]
    rw [List.flatMap_cons, chunkOf_append hlen, if_pos heven, hbyte, ih]

theorem candRecord_frameBits (bytes : List Byte) :
    candRecord (frameBits bytes) = .cand (bytes.flatMap chunkBitsOf) bytes (decodeFrame bytes) := by
  rw [candRecord, syncOf_frameBits, chunkOf_flatMap_chunkBitsOf]

/-- Without a Break there is one piece (40_classifier.md R114). -/
theorem splitAtBreak_bits (bits : List Bool) : splitAtBreak (bits.map .bit) = [bits] := by
  induction bits with
  | nil => rfl
  | cons b bits ih => rw [List.map_cons, splitAtBreak, ih, pushSymbol]

/-- The shapes of more than `P_MIN_SYMBOLS` bits are one retained candidate (40_classifier.md R114). -/
theorem candidates_bitShapes {p : Params} (hp : p.atDefaults) (hpre : p.clsCheck = .pre) {bits : List Bool}
    (hlong : p.minSymbols < bits.length) : candidates p (bits.flatMap bitShape) = [bits] := by
  rw [candidates, clsRun_bitShapes hp hpre, splitAtBreak_bits, List.filter_singleton, decide_eq_true hlong]
  rfl

/-- Settles O58: the frame's samples classify to its bits, which are one candidate of `9 + 9 * len(bytes)`
symbols. -/
theorem aFrameIsDecodedToItsBytes : Obligations.AFrameIsDecodedToItsBytes := by
  intro cap bytes hbytes
  have hlong : (Config.defaults cap).minSymbols < (frameBits bytes).length := by
    have hmin : (Config.defaults cap).minSymbols = 24 := rfl
    simp only [frameBits, List.length_append, List.length_replicate, List.length_cons, length_flatMap_chunkBitsOf]
    omega
  rw [packetRecords, frameShape_eq, candidates_bitShapes ⟨rfl, rfl, rfl, rfl⟩ rfl hlong, List.map_singleton,
    candRecord_frameBits, List.singleton_append]

end Sys2Proof.Machine

/-! ## One sample of the classifier, case by case (40_classifier.md R100 to R116)

`cls_step` is stated once for each of its cases, in both readings where the case has both. A SAMPLE that is
accepted is then that case, counted and routed. -/

namespace Sys2Proof.Machine

section
variable {p : Params} {on off n : Nat}

/-- R100. -/
theorem clsOnSample_saturated (h : on = p.onSat) : clsOnSample p on = (p.onSat, 0, some .brk) := if_pos h

/-- R101. -/
theorem clsOnSample_below (h : on < p.onSat) : clsOnSample p on = (on + 1, 0, none) := if_neg h.ne

/-- The off count that the tests for `Zero` and `One` read: the count before the sample under `PRE`, the count
after it under `POST` (40_classifier.md R106, R116). -/
def testedOff (p : Params) (off : Nat) : Nat :=
  match p.clsCheck with
  | .pre => off
  | .post => off + 1

theorem testedOff_pre (h : p.clsCheck = .pre) (off : Nat) : testedOff p off = off := by
  rw [testedOff, h]

theorem testedOff_post (h : p.clsCheck = .post) (off : Nat) : testedOff p off = off + 1 := by
  rw [testedOff, h]

/-- The two readings make the same tests, on another count (40_classifier.md R116). -/
theorem clsOffSample_eq (p : Params) (on off : Nat) :
    clsOffSample p on off =
      if on = 0 then (0, 1, none)
      else if (on, testedOff p off) ∈ p.zeroStates then (0, 0, some (.bit false))
      else if testedOff p off = p.offOne then (0, 0, some (.bit true))
      else (on, off + 1, none) := by
  cases h : p.clsCheck with
  | pre => simp only [clsOffSample, h, clsOffSamplePre, testedOff_pre h, List.contains_iff_mem]
  | post => simp only [clsOffSample, h, clsOffSamplePost, testedOff_post h, List.contains_iff_mem]

/-- R102. -/
theorem clsOffSample_idle (h : on = 0) : clsOffSample p on off = (0, 1, none) := by
  rw [clsOffSample_eq, if_pos h]

/-- R103. -/
theorem clsOffSample_zero (htest : testedOff p off = n) (hon : on ≠ 0) (hzero : (on, n) ∈ p.zeroStates) :
    clsOffSample p on off = (0, 0, some (.bit false)) := by
  rw [clsOffSample_eq, htest, if_neg hon, if_pos hzero]

/-- R104. -/
theorem clsOffSample_one (htest : testedOff p off = n) (hon : on ≠ 0) (hzero : (on, n) ∉ p.zeroStates)
    (hone : n = p.offOne) : clsOffSample p on off = (0, 0, some (.bit true)) := by
  rw [clsOffSample_eq, htest, if_neg hon, if_neg hzero, if_pos hone]

/-- R105. -/
theorem clsOffSample_count (htest : testedOff p off = n) (hon : on ≠ 0) (hzero : (on, n) ∉ p.zeroStates)
    (hone : n ≠ p.offOne) : clsOffSample p on off = (on, off + 1, none) := by
  rw [clsOffSample_eq, htest, if_neg hon, if_neg hzero, if_neg hone]

end

/-- An accepted sample in a legal pair, by the case of its kind of sample: the case is what `cls_step` answers, and
the instruction counts the sample and routes the symbol (44_packet_control.md R162). -/
theorem sample_of_case {s : State} {x : Bool} {on off : Nat} {y : Option Symbol} (haccepts : s.accepts)
    (hlegal : s.clsLegal)
    (hcase : (if x then clsOnSample s.cfg s.clsOn else clsOffSample s.cfg s.clsOn s.clsOff) = (on, off, y)) :
    clsStep s.cfg s.clsOn s.clsOff x = some (on, off, y) ∧
      exec (sampleInstr x) s = .next (routeSymbol (countSample s on off) y) := by
  have hstep : clsStep s.cfg s.clsOn s.clsOff x = some (on, off, y) := by rw [clsStep, if_pos hlegal, hcase]
  exact ⟨hstep, exec_of_effect (.sampled haccepts hstep)⟩

/-- Settles O16: a symbol is emitted in the saturated case of an on sample, or in the `Zero` or `One` case of an
off sample. -/
theorem symbolsComeFromTheirKindOfSample : Obligations.SymbolsComeFromTheirKindOfSample := by
  intro p on off on' off' x y h
  obtain ⟨-, ⟨rfl, hr⟩ | ⟨rfl, hr⟩⟩ := clsStep_eq_some h
  · obtain ⟨-, hon⟩ | ⟨-, hon⟩ := clsOnSample_cases p on <;> cases hr.trans hon
    exact ⟨fun _ => ⟨rfl, rfl, rfl⟩, nofun⟩
  · obtain ⟨-, hoff⟩ | ⟨-, ⟨b, hoff⟩ | hoff⟩ := clsOffSample_cases p on off <;> cases hr.trans hoff
    exact ⟨nofun, fun _ _ => ⟨rfl, rfl, rfl⟩⟩

theorem countBits_append (l r : List Symbol) : countBits (l ++ r) = countBits l + countBits r := by
  induction l with
  | nil => exact (Nat.zero_add _).symm
  | cons y l ih => cases y <;> simp only [List.cons_append, countBits, ih, Nat.add_right_comm]

/-- From a reachable pair, the samples of the string and those already in progress pay for the symbols emitted
(40_classifier.md R113 (b), R116). -/
theorem countBits_clsRun_le {p : Params} (hp : p.atDefaults) (w : List Bool) :
    ∀ {on off : Nat}, (on, off) ∈ reachablePairs p.clsCheck →
      samplesPerSymbol p.clsCheck * countBits (clsRun p on off w)
        ≤ w.length + samplesInProgress p.clsCheck on off := by
  induction w with
  | nil => exact fun _ => Nat.zero_le _
  | cons x w ih =>
    intro on off h
    obtain ⟨⟨on', off', y⟩, hstep, hnext, hpaid⟩ := clsStep_of_reachable hp h x
    have hrest := ih hnext
    rw [clsRun_cons w hstep, countBits_append, Nat.mul_add, List.length_cons]
    dsimp only at hrest hpaid
    omega

/-- Settles O17: in (0,0) no sample is in progress. -/
theorem symbolDensityIsBounded : Obligations.SymbolDensityIsBounded := by
  intro p w hp
  exact countBits_clsRun_le hp w (idle_reachable p.clsCheck)

/-- Settles O8: the case R100, whose Break is routed to candidate close. -/
theorem onSampleAtSaturationEmitsBreak : Obligations.OnSampleAtSaturationEmitsBreak := by
  intro s haccepts hlegal hsat
  exact sample_of_case (x := true) haccepts hlegal (clsOnSample_saturated hsat)

/-- Settles O9: the case R101, which routes nothing. -/
theorem onSampleBelowSaturationCountsTheRun : Obligations.OnSampleBelowSaturationCountsTheRun := by
  intro s haccepts hlegal hbelow
  exact sample_of_case (x := true) haccepts hlegal (clsOnSample_below hbelow)

/-- Settles O10: the case R102, the same in both readings. -/
theorem offSampleWhileIdlePinsTheOffRun : Obligations.OffSampleWhileIdlePinsTheOffRun := by
  intro s haccepts hlegal hidle
  exact sample_of_case (x := false) haccepts hlegal (clsOffSample_idle hidle)

/-- Settles O11: the case R103, whose `Zero` is routed to `symbol_in`. -/
theorem offSampleInZeroStateEmitsZero : Obligations.OffSampleInZeroStateEmitsZero := by
  intro s haccepts hpre hlegal hon hzero
  exact sample_of_case (x := false) haccepts hlegal (clsOffSample_zero (testedOff_pre hpre s.clsOff) hon hzero)

/-- Settles O12: the case R104, whose `One` is routed to `symbol_in`. -/
theorem offSampleAtOffOneEmitsOne : Obligations.OffSampleAtOffOneEmitsOne := by
  intro s haccepts hpre hlegal hon hzero hone
  exact sample_of_case (x := false) haccepts hlegal (clsOffSample_one (testedOff_pre hpre s.clsOff) hon hzero hone)

/-- Settles O13: the case R105; a legal off count that is not `P_OFF_ONE` is below it. -/
theorem offSampleInsideARunCountsTheOffRun : Obligations.OffSampleInsideARunCountsTheOffRun := by
  intro s haccepts hpre hlegal hon hzero hone
  have hcase := clsOffSample_count (testedOff_pre hpre s.clsOff) hon hzero hone
  obtain ⟨-, hoff⟩ := (clsMeaningful_pre hpre _ _).1 hlegal
  obtain ⟨hstep, hexec⟩ := sample_of_case (x := false) haccepts hlegal hcase
  exact ⟨hstep, by omega, hexec⟩

/-- Settles O14: under `POST` the tested count is the one after the sample; one case for each clause. -/
theorem postOffSampleTestsAfterTheCount : Obligations.PostOffSampleTestsAfterTheCount := by
  intro s haccepts hpost hlegal hon
  have htest := testedOff_post hpost s.clsOff
  refine ⟨fun hzero => ?_, fun hzero hone => ?_, fun hzero hone => ?_⟩
  · exact (sample_of_case (x := false) haccepts hlegal (clsOffSample_zero htest hon hzero)).2
  · exact (sample_of_case (x := false) haccepts hlegal (clsOffSample_one htest hon hzero hone)).2
  · exact (sample_of_case (x := false) haccepts hlegal (clsOffSample_count htest hon hzero hone)).2

/-- The rows of the table list the legal ranges in order (40_classifier.md R107). -/
theorem transitionTable_pairs : transitionTable.map Prod.fst = List.range 5 ×ˢ List.range 3 := by decide

/-- Settles O15: the capacity does not matter to `cls_step`, so the rows are a finite check; the legal ranges are
the pairs of the rows. -/
theorem classifierFollowsTheTransitionTable : Obligations.ClassifierFollowsTheTransitionTable := by
  intro cap
  have hdefaults : (Config.defaults cap).atDefaults := ⟨rfl, rfl, rfl, rfl⟩
  have rows : ∀ row ∈ transitionTable,
      clsStep (defaultsFor .pre) row.1.1 row.1.2 true = some row.2.1 ∧
      clsStep (defaultsFor .pre) row.1.1 row.1.2 false = some row.2.2 := by decide
  refine ⟨fun row hrow => ?_, fun on off => ?_⟩
  · simpa only [clsStep_of_pre hdefaults rfl] using rows row hrow
  · rw [clsMeaningful_pre rfl, transitionTable_pairs, List.mem_product, List.mem_range, List.mem_range]
    exact and_congr Nat.lt_succ_iff.symm Nat.lt_succ_iff.symm

/-- Settles O21: the effect of an accepted sample routes the bit to `symbol_in`, and an on sample emits no bit. -/
theorem symbolIsCountedAndPassedToSyn : Obligations.SymbolIsCountedAndPassedToSyn := by
  refine ⟨fun _ _ => rfl, fun s on off b haccepts hstep => ?_, fun s on off b hstep => ?_⟩
  · exact exec_of_effect (.sampled (x := false) haccepts hstep)
  · obtain ⟨-, hbit⟩ := symbolsComeFromTheirKindOfSample _ _ _ _ _ _ _ hstep
    exact Bool.noConfusion (hbit b rfl).1

end Sys2Proof.Machine

/-! ## SYN over a candidate is the batch Sync (41_synchronizer.md R120 to R125) -/

namespace Sys2Proof.Machine

/-! `syn_step`, an equation for each of its cases. -/

theorem synStep_zero {s : State} (h : s.synLocked = false) :
    synStep s false = { s with synZc := min (s.synZc + 1) Config.syncZeros } := by
  simp [synStep, h]

theorem synStep_marker {s : State} (h : s.synLocked = false) (hz : Config.syncZeros ≤ s.synZc) :
    synStep s true = { s with synLocked := true, synZc := 0 } := by
  simp [synStep, h, hz]

theorem synStep_isolatedOne {s : State} (h : s.synLocked = false) (hz : s.synZc < Config.syncZeros) :
    synStep s true = { s with synZc := 0 } := by
  simp [synStep, h, Nat.not_le.2 hz]

theorem synStep_locked {s : State} (h : s.synLocked = true) (b : Bool) :
    synStep s b = chkStep { s with synBuf := s.synBuf ++ [b] } b := if_pos h

/-- Settles O22: the four equations of `syn_step`. -/
theorem synStepFollowsItsFourCases : Obligations.SynStepFollowsItsFourCases := by
  intro s b
  refine ⟨?_, ?_, ?_, fun hlocked => synStep_locked hlocked b⟩
  · rintro hopen rfl; exact synStep_zero hopen
  · rintro hopen rfl hzeros; exact synStep_marker hopen hzeros
  · rintro hopen rfl hfew; exact synStep_isolatedOne hopen hfew

/-! The batch Sync, by where the first marker ends. -/

theorem markerAt_two_iff (x : List Bool) : markerAt x 2 ↔ ∃ rest, x = false :: false :: true :: rest := by
  constructor
  · rintro ⟨-, hone, hzero, hzero'⟩
    match x with
    | [] | [_] | [_, _] => cases hone
    | a :: b :: c :: rest =>
      cases hone; cases hzero; cases hzero'
      exact ⟨rest, rfl⟩
  · rintro ⟨rest, rfl⟩
    exact ⟨le_rfl, rfl, rfl, rfl⟩

/-- Without a marker in front, the markers are those of the tail, one index later. -/
theorem markerAt_cons_succ {b : Bool} {x : List Bool} (h : ¬ markerAt (b :: x) 2) (j : Nat) :
    markerAt (b :: x) (j + 1) ↔ markerAt x j := by
  match j with
  | 0 => simp [markerAt]
  | 1 => exact iff_of_false h (by simp [markerAt])
  | j + 2 => simp [markerAt]

theorem syncOf_cons {b : Bool} {x : List Bool} (h : ¬ markerAt (b :: x) 2) : syncOf (b :: x) = syncOf x := by
  rw [syncOf]
  rintro rest rfl rfl
  exact h ((markerAt_two_iff _).2 ⟨rest, rfl⟩)

theorem syncOf_of_least_marker {x : List Bool} {j : Nat} (hj : markerAt x j) (hleast : ∀ i < j, ¬ markerAt x i) :
    syncOf x = x.drop (j + 1) := by
  induction x generalizing j with
  | nil => cases hj.2.1
  | cons b x ih =>
    by_cases hfront : markerAt (b :: x) 2
    · obtain ⟨rest, hx⟩ := (markerAt_two_iff _).1 hfront
      obtain rfl : j = 2 := le_antisymm (Nat.not_lt.1 fun hlt => hleast 2 hlt hfront) hj.1
      rw [hx, syncOf]; rfl
    · obtain ⟨k, rfl⟩ : ∃ k, j = k + 1 := Nat.exists_eq_add_one.2 (Nat.zero_lt_two.trans_le hj.1)
      have hshift := markerAt_cons_succ hfront
      rw [syncOf_cons hfront, List.drop_succ_cons]
      exact ih ((hshift k).1 hj) fun i hi hm => hleast (i + 1) (Nat.succ_lt_succ hi) ((hshift i).2 hm)

theorem syncOf_of_no_marker {x : List Bool} (h : ∀ j, ¬ markerAt x j) : syncOf x = [] := by
  induction x with
  | nil => rfl
  | cons b x ih =>
    rw [syncOf_cons (h 2)]
    exact ih fun j hm => h (j + 1) ((markerAt_cons_succ (h 2) j).2 hm)

/-! The zero count `z` of `syn_step` stands for `z` pending zeros in front of the bits still to come. -/

theorem syncOf_pending_nil {z : Nat} (hz : z ≤ 2) : syncOf (List.replicate z false) = [] := by
  interval_cases z <;> rfl

/-- A third pending zero changes nothing, so the count may saturate (41_synchronizer.md R121). -/
theorem syncOf_pending_zero {z : Nat} (hz : z ≤ 2) (x : List Bool) :
    syncOf (List.replicate z false ++ false :: x) = syncOf (List.replicate (min (z + 1) 2) false ++ x) := by
  interval_cases z <;> rfl

theorem syncOf_pending_marker {z : Nat} (hz : z = 2) (x : List Bool) :
    syncOf (List.replicate z false ++ true :: x) = x := by
  subst hz; rfl

theorem syncOf_pending_isolatedOne {z : Nat} (hz : z < 2) (x : List Bool) :
    syncOf (List.replicate z false ++ true :: x) = syncOf x := by
  interval_cases z <;> rfl

/-! `syn_step` over a sequence. -/

/-- Once locked, SYN keeps every bit (41_synchronizer.md R124). -/
theorem foldl_synStep_of_locked (x : List Bool) {s : State} (h : s.synLocked = true) :
    (x.foldl synStep s).synBuf = s.synBuf ++ x := by
  induction x generalizing s with
  | nil => exact (List.append_nil _).symm
  | cons b x ih =>
    rw [List.foldl_cons, synStep_locked h, ih (by simpa using h), chkStep_synBuf, List.append_assoc,
      List.singleton_append]

theorem foldl_synStep_of_unlocked (x : List Bool) {s : State} (hopen : s.synLocked = false)
    (hempty : s.synBuf = []) (hrange : s.synZc ≤ Config.syncZeros) :
    (x.foldl synStep s).synBuf = syncOf (List.replicate s.synZc false ++ x) := by
  induction x generalizing s with
  | nil => rw [List.foldl_nil, hempty, List.append_nil, syncOf_pending_nil hrange]
  | cons b x ih =>
    rw [List.foldl_cons]
    cases b with
    | false =>
      rw [synStep_zero hopen, syncOf_pending_zero hrange]
      exact ih hopen hempty (min_le_right _ _)
    | true =>
      rcases hrange.lt_or_eq with hfew | hzeros
      · rw [synStep_isolatedOne hopen hfew, syncOf_pending_isolatedOne hfew]
        exact ih hopen hempty (Nat.zero_le _)
      · rw [synStep_marker hopen hzeros.ge, foldl_synStep_of_locked x rfl, hempty, syncOf_pending_marker hzeros]
        rfl

/-- Settles O23: from the reset values no zero is pending, and the batch Sync is read off its first marker. -/
theorem synOverACandidateIsTheBatchSync : Obligations.SynOverACandidateIsTheBatchSync := fun s x =>
  ⟨foldl_synStep_of_unlocked x (clearCandidate_synLocked s) (clearCandidate_synBuf s) (Nat.zero_le _),
    fun _ hj hleast => syncOf_of_least_marker hj hleast, syncOf_of_no_marker⟩

end Sys2Proof.Machine

/-! ## CHK: the cases of `chk_step`, the parity of a chunk, and how a run over a synced sequence ends
(42_chunker.md R130 to R135) -/

namespace Sys2Proof.Machine

/-! `chk_step`, an equation for each of its cases. -/

theorem chkStep_stopped {s : State} (h : s.chkStop = true) (b : Bool) : chkStep s b = s := if_pos h

theorem chkStep_shift {s : State} (hrun : s.chkStop = false) (hcnt : s.chkCnt + 1 ≠ Config.chunkBits) (b : Bool) :
    chkStep s b = { s with chkSr := shiftIn s.chkSr b, chkCnt := s.chkCnt + 1 } := by
  simp [chkStep, hrun, hcnt]

theorem chkStep_ninth {s : State} (hrun : s.chkStop = false) (hcnt : s.chkCnt + 1 = Config.chunkBits) (b : Bool) :
    chkStep s b = chkGroup s (shiftIn s.chkSr b) := by
  simp [chkStep, hrun, hcnt]

theorem evenParity_eq_false (v : Chunk) : evenParity v = false ↔ popcount v % 2 = 1 := by
  rw [← Bool.not_eq_true, evenParity_eq_true, Nat.mod_two_not_eq_zero]

theorem chkGroup_of_even (s : State) {sr : Chunk} (h : evenParity sr = true) :
    chkGroup s sr = { s with chkBuf := s.chkBuf ++ [chunkByte sr], chkSr := 0#9, chkCnt := 0 } := if_pos h

theorem chkGroup_of_odd (s : State) {sr : Chunk} (h : evenParity sr = false) :
    chkGroup s sr = { s with chkStop := true, chkSr := 0#9, chkCnt := 0 } := by
  simp [chkGroup, h]

/-- Settles O24: the equations of `chk_step`, the ninth bit's split by the parity of its group. -/
theorem chkStepFollowsItsFourCases : Obligations.ChkStepFollowsItsFourCases := by
  intro s b
  refine ⟨fun hstop => chkStep_stopped hstop b, fun hrun hcnt => chkStep_shift hrun hcnt b, ?_, ?_⟩
  · intro hrun hcnt heven
    exact (chkStep_ninth hrun hcnt b).trans (chkGroup_of_even s ((evenParity_eq_true _).2 heven))
  · intro hrun hcnt hodd
    exact (chkStep_ninth hrun hcnt b).trans (chkGroup_of_odd s ((evenParity_eq_false _).2 hodd))

/-! The parity of a chunk with one bit inverted. -/

theorem popcount_eq_sum (v : Chunk) : popcount v = ∑ j ∈ Finset.range 9, (v.getLsbD j).toNat := by
  calc popcount v = ((Finset.range 9).filter fun j => v.getLsbD j = true).card := by
        simp [popcount, Config.chunkBits, Finset.card, Finset.filter, Multiset.range]
    _ = ∑ j ∈ Finset.range 9, (v.getLsbD j).toNat := by
        rw [Finset.card_filter]
        exact Finset.sum_congr rfl fun j _ => by cases v.getLsbD j <;> rfl

theorem getLsbD_flip_same (v : Chunk) {i : Nat} (h : i < 9) : (v ^^^ (1#9 <<< i)).getLsbD i = !v.getLsbD i := by
  simp [h]

theorem getLsbD_flip_ne (v : Chunk) {i j : Nat} (h : j ≠ i) : (v ^^^ (1#9 <<< i)).getLsbD j = v.getLsbD j := by
  have hpos : i ≤ j → j - i ≠ 0 := by omega
  have hbit : (1#9 <<< i).getLsbD j = false := by simpa using fun _ => hpos
  rw [BitVec.getLsbD_xor, hbit, Bool.xor_false]

/-- Only the inverted bit's share of the popcount changes. -/
theorem popcount_flip (v : Chunk) {i : Nat} (h : i < 9) :
    popcount (v ^^^ (1#9 <<< i)) + (v.getLsbD i).toNat = popcount v + (!v.getLsbD i).toNat := by
  have hmem : i ∈ Finset.range 9 := Finset.mem_range.2 h
  have hrest : ∑ j ∈ (Finset.range 9).erase i, ((v ^^^ (1#9 <<< i)).getLsbD j).toNat
      = ∑ j ∈ (Finset.range 9).erase i, (v.getLsbD j).toNat :=
    Finset.sum_congr rfl fun j hj => by rw [getLsbD_flip_ne v (Finset.ne_of_mem_erase hj)]
  rw [popcount_eq_sum, popcount_eq_sum, ← Finset.sum_erase_add _ _ hmem, ← Finset.sum_erase_add _ _ hmem, hrest,
    getLsbD_flip_same v h, Nat.add_right_comm]

/-- Settles O27: inverting a bit moves the popcount up or down by one (42_chunker.md R135). -/
theorem flippingOneBitFlipsTheParity : Obligations.FlippingOneBitFlipsTheParity := by
  intro v i hi
  have hflip := popcount_flip v hi
  have hone : (v.getLsbD i).toNat + (!v.getLsbD i).toNat = 1 := by cases v.getLsbD i <;> rfl
  rw [Bool.eq_not_iff, ne_eq, Bool.eq_iff_iff, evenParity_eq_true, evenParity_eq_true]
  omega

/-! The end of a run of `chk_step` over a sequence. -/

/-- How CHK can stand after a sequence from idle: running, with every complete group's byte kept and the rest
counted, or stopped at a group whose byte is missing (42_chunker.md R131, R133). -/
theorem ChkIdle.foldl_cases (y : List Bool) {s : State} (h : ChkIdle s) :
    ((y.foldl chkStep s).chkStop = false ∧ (chunkOf y).length = y.length / 9 ∧
        (y.foldl chkStep s).chkCnt = y.length % 9) ∨
      ((y.foldl chkStep s).chkStop = true ∧ (chunkOf y).length < y.length / 9) := by
  induction y using group_induction generalizing s with
  | short y hy =>
    have hfold := foldl_chkStep_of_short y h.running (by rw [h.count, Nat.zero_add]; exact hy)
    have hcnt : (y.foldl chkStep s).chkCnt = y.length := by rw [hfold]; simp [h.count]
    left
    refine ⟨by rw [hfold]; exact h.running, ?_, by rw [hcnt, Nat.mod_eq_of_lt hy]⟩
    rw [chunkOf_of_short hy, List.length_nil, Nat.div_eq_of_lt hy]
  | group g y hg ih =>
    have hdiv : (g ++ y).length / 9 = y.length / 9 + 1 := by rw [List.length_append, hg]; omega
    have hmod : (g ++ y).length % 9 = y.length % 9 := by rw [List.length_append, hg]; omega
    rw [List.foldl_append, h.foldl_group hg, chunkOf_append hg, hdiv, hmod]
    by_cases he : g.count true % 2 = 0
    · obtain ⟨hidle, -⟩ := h.chkGroup_even ((evenParity_foldl_shiftIn hg).2 he)
      rw [if_pos he, List.length_cons, Nat.add_right_cancel_iff, Nat.add_lt_add_iff_right]
      exact ih hidle
    · obtain ⟨hstop, -⟩ := chkGroup_odd s (mt (evenParity_foldl_shiftIn hg).1 he)
      rw [foldl_chkStep_of_stopped y hstop, if_neg he]
      exact .inr ⟨hstop, Nat.succ_pos _⟩

/-- Settles O26: the reset values are idle, and the two ends of a run exclude each other. -/
theorem chkOverASequenceIsTheBatchChunk : Obligations.ChkOverASequenceIsTheBatchChunk := by
  intro s y
  have hidle := clearCandidate_chkIdle s
  refine ⟨hidle.foldl_chkBuf y, ?_⟩
  rcases hidle.foldl_cases y with ⟨hrun, hlen, hcnt⟩ | ⟨hstop, hlen⟩
  · simp [hrun, hlen, hcnt]
  · simp [hstop, hlen]

end Sys2Proof.Machine

/-! ## DEC: what each frame answers (43_decoder.md R140 to R151) -/

namespace Sys2Proof.Machine

/-! The length check, the checksum and the dispatch, an equation for each branch. -/

theorem decodeWith_short (k : List Byte → ResultWord) {bytes : List Byte} (hlen : bytes.length < 6) :
    decodeWith k bytes = rejWord .rejShort := by
  rw [decodeWith, (longEnough_eq_false bytes).2 hlen]
  rfl

theorem decodeWith_badChecksum (k : List Byte → ResultWord) {bytes : List Byte} (hlen : 6 ≤ bytes.length)
    (hsum : checksumOk bytes = false) : decodeWith k bytes = rejWord .rejChecksum := by
  rw [decodeWith, (longEnough_eq_true bytes).2 hlen, hsum]
  rfl

theorem decodeWith_valid (k : List Byte → ResultWord) {bytes : List Byte} (hlen : 6 ≤ bytes.length)
    (hsum : checksumOk bytes = true) : decodeWith k bytes = k bytes := by
  rw [decodeWith, (longEnough_eq_true bytes).2 hlen, hsum]
  rfl

/-- The outcome of the command is read at the frame alone. -/
theorem decodeWith_congr {k k' : List Byte → ResultWord} {bytes : List Byte} (h : k bytes = k' bytes) :
    decodeWith k bytes = decodeWith k' bytes := by
  rw [decodeWith, decodeWith, h]

theorem commandWord_openTo {bytes : List Byte} (h : cmdNibble (frameCommand bytes) = Config.cmdOpenTo) :
    commandWord bytes = openToWord bytes := if_pos h

theorem commandWord_sync {bytes : List Byte} (h : cmdNibble (frameCommand bytes) = Config.cmdSync) :
    commandWord bytes = syncWord bytes := by
  have hne : Config.cmdSync ≠ Config.cmdOpenTo := by decide
  rw [commandWord, h, if_neg hne, if_pos rfl]

theorem commandWord_unknown {bytes : List Byte} (hopen : cmdNibble (frameCommand bytes) ≠ Config.cmdOpenTo)
    (hsync : cmdNibble (frameCommand bytes) ≠ Config.cmdSync) : commandWord bytes = unknownWord bytes := by
  rw [commandWord, if_neg hopen, if_neg hsync]

/-- The dispatch on the nibble is the meaning of the instruction that the command byte decodes to
(43_decoder.md R145, 30_encoding.md R67). -/
theorem commandWord_eq_commandMeaning (bytes : List Byte) :
    commandWord bytes = commandMeaning (decodeCommand (frameCommand bytes)) bytes := by
  rcases decodeCommand_cases (frameCommand bytes) with ⟨hn, heq⟩ | ⟨hn, heq⟩ | ⟨hopen, hsync, heq⟩ <;>
    rw [heq]
  · exact commandWord_openTo hn
  · exact commandWord_sync hn
  · exact commandWord_unknown hopen hsync

/-! The words of the three rejections, and the percent of an OpenTo. -/

theorem rejWord_short : rejWord .rejShort = 0x2000000000#40 := by decide

theorem rejWord_checksum : rejWord .rejChecksum = 0x4000000000#40 := by decide

theorem rejWord_unknown : rejWord .rejUnknownCmd = 0x6000000000#40 := by decide

theorem percent_le (x : Byte) : x.toNat * 100 / 255 ≤ 100 := by
  have := x.isLt
  omega

/-- The percent loses nothing when it is narrowed (43_decoder.md R146, R153). -/
theorem percentOf_toNat (x : Byte) : (percentOf x).toNat = x.toNat * 100 / 255 :=
  (BitVec.toNat_ofNat ..).trans (Nat.mod_eq_of_lt ((percent_le x).trans_lt (by decide)))

/-- Settles O28: the length is the first check. -/
theorem fewerThanSixBytesAreRejectedShort : Obligations.FewerThanSixBytesAreRejectedShort := by
  intro bytes hlen
  exact (decodeWith_short commandWord hlen).trans rejWord_short

/-- Settles O32: both checks pass and the dispatch falls through to the last row. -/
theorem unknownNibbleIsRejected : Obligations.UnknownNibbleIsRejected := by
  intro bytes hlen hsum hopen hsync
  calc decodeFrame bytes = commandWord bytes := decodeWith_valid commandWord hlen hsum
    _ = rejWord .rejUnknownCmd := commandWord_unknown hopen hsync
    _ = 0x6000000000#40 := rejWord_unknown

/-- Settles O31: the fields of an OK word with Sync's KIND and PCT. -/
theorem syncResultCarriesNoPercent : Obligations.SyncResultCarriesNoPercent := by
  intro bytes hlen hsum hnibble
  have hword : decodeFrame bytes = syncWord bytes :=
    (decodeWith_valid commandWord hlen hsum).trans (commandWord_sync hnibble)
  rw [hword]
  exact resultWord_fields ..

/-- Settles O30: the fields of an OK word with OpenTo's KIND, and the percent, which fits its field. -/
theorem openToResultCarriesThePercent : Obligations.OpenToResultCarriesThePercent := by
  intro bytes hlen hsum hnibble
  have hword : decodeFrame bytes = openToWord bytes :=
    (decodeWith_valid commandWord hlen hsum).trans (commandWord_openTo hnibble)
  have hfields := resultWord_fields .ok 1#1 (frameByte bytes 0) (frameByte bytes 1) (frameByte bytes 2)
    (percentOf (frameByte bytes 4))
  obtain ⟨hstatus, hkind, hreserved, hh1, hh2, haddr, hpct⟩ := hfields
  have hpercent := (congrArg BitVec.toNat hpct).trans (percentOf_toNat _)
  rw [hword]
  exact ⟨hstatus, hkind, hreserved, hh1, hh2, haddr, hpercent, hpercent.trans_le (percent_le _)⟩

/-! Which STATUS a frame has: one case for each code. -/

theorem statusField_rejWord (st : Status) : statusField (rejWord st) = statusCode st := statusField_resultWord ..

/-- The checks in step order, with the code of each (43_decoder.md R151, 30_encoding.md R72). -/
theorem statusField_decodeFrame_cases (bytes : List Byte) :
    (bytes.length < 6 ∧ statusField (decodeFrame bytes) = 0b001#3) ∨
      (6 ≤ bytes.length ∧ checksumOk bytes = false ∧ statusField (decodeFrame bytes) = 0b010#3) ∨
      (6 ≤ bytes.length ∧ checksumOk bytes = true ∧
        ¬ (cmdNibble (frameCommand bytes) = 0x6#4 ∨ cmdNibble (frameCommand bytes) = 0xC#4) ∧
        statusField (decodeFrame bytes) = 0b011#3) ∨
      (6 ≤ bytes.length ∧ checksumOk bytes = true ∧
        (cmdNibble (frameCommand bytes) = 0x6#4 ∨ cmdNibble (frameCommand bytes) = 0xC#4) ∧
        statusField (decodeFrame bytes) = 0b000#3) := by
  rcases decodeWith_cases commandWord bytes with ⟨hlen, h⟩ | ⟨hlen, hsum, h⟩ | ⟨hlen, hsum, h⟩ <;>
    rw [decodeFrame, h]
  · exact .inl ⟨(longEnough_eq_false bytes).1 hlen, statusField_rejWord _⟩
  · exact .inr (.inl ⟨(longEnough_eq_true bytes).1 hlen, hsum, statusField_rejWord _⟩)
  · rw [longEnough_eq_true] at hlen
    rcases commandWord_cases bytes with ⟨hn, hk⟩ | ⟨hn, hk⟩ | ⟨hopen, hsync, hk⟩ <;> rw [hk]
    · exact .inr (.inr (.inr ⟨hlen, hsum, .inl hn, statusField_resultWord ..⟩))
    · exact .inr (.inr (.inr ⟨hlen, hsum, .inr hn, statusField_resultWord ..⟩))
    · exact .inr (.inr (.inl ⟨hlen, hsum, not_or.2 ⟨hopen, hsync⟩, statusField_rejWord _⟩))

/-- The checksum check over the natural numbers (43_decoder.md R144). -/
theorem checksumOk_iff_toNat (bytes : List Byte) :
    checksumOk bytes = true ↔ (frameByte bytes (frameLen bytes - 1)).toNat
      = (((bytes.take (frameLen bytes - 1)).map BitVec.toNat).sum + 0x0C) % 256 := by
  rw [checksumOk_eq_true, ← BitVec.toNat_inj, checksumOf, BitVec.toNat_ofNat]
  rfl

/-- Settles O29: the four cases exclude each other, so each code belongs to its own. -/
theorem statusReportsTheFirstFailingCheck : Obligations.StatusReportsTheFirstFailingCheck := by
  intro bytes n sumOk nibble known
  have hsumOk : checksumOk bytes = true ↔ sumOk := checksumOk_iff_toNat bytes
  have hknown : (cmdNibble (frameCommand bytes) = 0x6#4 ∨ cmdNibble (frameCommand bytes) = 0xC#4) ↔ known := Iff.rfl
  rw [← hsumOk, ← hknown]
  rcases statusField_decodeFrame_cases bytes with
    ⟨hlen, hst⟩ | ⟨hlen, hsum, hst⟩ | ⟨hlen, hsum, hk, hst⟩ | ⟨hlen, hsum, hk, hst⟩ <;> rw [hst]
  · simp [hlen, hlen.not_ge]
  · simp [hlen, hlen.not_gt, hsum]
  · simp [hlen, hlen.not_gt, hsum, hk]
  · simp [hlen, hlen.not_gt, hsum, hk]

end Sys2Proof.Machine

/-! ## DEC reads the frame alone (43_decoder.md R150) -/

namespace Sys2Proof.Machine

theorem five_le_frameLen (bytes : List Byte) : 5 ≤ frameLen bytes := by
  unfold frameLen
  split <;> decide

section
variable {a b : List Byte}

theorem frameByte_of_take_eq {n i : Nat} (h : a.take n = b.take n) (hi : i < n) : frameByte a i = frameByte b i := by
  rw [frameByte, frameByte, List.getD_eq_getElem?_getD, List.getD_eq_getElem?_getD, ← List.getElem?_take_of_lt hi, h,
    List.getElem?_take_of_lt hi]

theorem take_eq_of_take_eq {n m : Nat} (h : a.take n = b.take n) (hm : m ≤ n) : a.take m = b.take m := by
  rw [← Nat.min_eq_left hm, ← List.take_take, h, List.take_take]

/-- The frame carries its own length. -/
theorem frameLen_of_take_eq (h : a.take (frameLen a) = b.take (frameLen a)) : frameLen b = frameLen a := by
  have hcmd : frameCommand a = frameCommand b :=
    frameByte_of_take_eq h (Nat.lt_of_lt_of_le (by decide) (five_le_frameLen a))
  rw [frameLen, frameLen, hcmd]

theorem checksumOk_of_take_eq (h : a.take (frameLen a) = b.take (frameLen a)) : checksumOk a = checksumOk b := by
  have hlast : frameLen a - 1 < frameLen a := Nat.sub_one_lt_of_lt (five_le_frameLen a)
  rw [checksumOk, checksumOk, checksumOf, checksumOf, frameLen_of_take_eq h, frameByte_of_take_eq h hlast,
    take_eq_of_take_eq h hlast.le]

/-- The commands read the first five bytes (43_decoder.md R145 to R149). -/
theorem commandWord_of_take_eq (h : a.take 5 = b.take 5) : commandWord a = commandWord b := by
  have hbyte {i : Nat} (hi : i < 5) : frameByte a i = frameByte b i := frameByte_of_take_eq h hi
  have hcmd : frameCommand a = frameCommand b := hbyte (by decide)
  have hok (cmd : Command) : okWord a cmd = okWord b cmd := by
    rw [okWord, okWord, hbyte (i := 0) (by decide), hbyte (i := 1) (by decide), hbyte (i := 2) (by decide)]
  rw [commandWord, commandWord, hcmd, openToWord, openToWord, hbyte (i := 4) (by decide), hok, syncWord, syncWord,
    hok, unknownWord, unknownWord]

end

/-- Settles O33: the checksum and the command read only the frame, whose length is in it. -/
theorem bytesAfterTheFrameDoNotMatter : Obligations.BytesAfterTheFrameDoNotMatter := by
  intro a b ha hb h
  have hlong : longEnough a = longEnough b :=
    ((longEnough_eq_true a).2 ha).trans ((longEnough_eq_true b).2 hb).symm
  have hword : commandWord a = commandWord b := commandWord_of_take_eq (take_eq_of_take_eq h (five_le_frameLen a))
  rw [decodeFrame, decodeFrame, decodeWith, decodeWith, hlong, checksumOk_of_take_eq h, hword]

end Sys2Proof.Machine

/-! ## A command byte is executed as the close of its candidate (44_packet_control.md R160, R161, log entry 7) -/

namespace Sys2Proof.Machine

theorem closeWith_retained {s : State} (h : s.cfg.minSymbols < s.candLen) (bytes : List Byte) (w : ResultWord) :
    closeWith s bytes w = clearCandidate (emit s (.cand s.synBuf bytes w)) := by
  rw [closeWith, if_pos ((retained_eq_true s).2 h)]

theorem closeWith_unretained {s : State} (h : s.candLen ≤ s.cfg.minSymbols) (bytes : List Byte) (w : ResultWord) :
    closeWith s bytes w = clearCandidate s := by
  rw [closeWith, (retained_eq_false s).2 h]
  rfl

section
variable {s : State} {i : Instr} {c : Byte}

theorem exec_command_unretained (hi : encode i = .command c) (h : s.candLen ≤ s.cfg.minSymbols) :
    exec i s = .next (clearCandidate s) := by
  rw [exec_command s hi, closeWithCommand, closeWith_unretained h]

/-- A retained candidate appends the record of the frame with the command byte in it. -/
theorem exec_command_retained {w : ResultWord} (hi : encode i = .command c) (h : s.cfg.minSymbols < s.candLen)
    (hw : decodeWith (commandMeaning i) (s.chkBuf.set 3 c) = w) :
    exec i s = .next (clearCandidate (emit s (.cand s.synBuf (s.chkBuf.set 3 c) w))) := by
  rw [exec_command s hi, closeWithCommand, closeWith_retained h, withFrameCommand, hw]

end

/-- Settles O35: the record's word is OpenTo's own, since both checks pass. -/
theorem openToCompletesWithItsRecord : Obligations.OpenToCompletesWithItsRecord := by
  intro s top ext b4 bytes hret hlen hsum
  exact exec_command_retained (i := .openTo top ext b4) rfl hret (decodeWith_valid openToWord hlen hsum)

/-- Settles O36: the record's word is Sync's own, since both checks pass. -/
theorem syncCompletesWithItsRecord : Obligations.SyncCompletesWithItsRecord := by
  intro s top ext b4 bytes hret hlen hsum
  exact exec_command_retained (i := .sync top ext b4) rfl hret (decodeWith_valid syncWord hlen hsum)

/-- Settles O37: the record's word is the rejection of the command, since both checks pass. -/
theorem unknownCommandCompletesWithItsRecord : Obligations.UnknownCommandCompletesWithItsRecord := by
  intro s top ext b4 cmd bytes _ _ hret hlen hsum
  exact exec_command_retained (i := .unknownCommand top ext b4 cmd) rfl hret
    ((decodeWith_valid unknownWord hlen hsum).trans rejWord_unknown)

/-- Settles O38: retention, then the length, then the checksum are tested before the command's own outcome. -/
theorem commandsInBadFramesAreRejectedBeforeDispatch : Obligations.CommandsInBadFramesAreRejectedBeforeDispatch := by
  intro s i c _ hi bytes
  refine ⟨exec_command_unretained hi, ?_, ?_⟩
  · intro hret hlen
    exact exec_command_retained hi hret ((decodeWith_short _ hlen).trans rejWord_short)
  · intro hret hlen hsum
    exact exec_command_retained hi hret ((decodeWith_badChecksum _ hlen hsum).trans rejWord_checksum)

/-- A frame whose byte 3 is `c` is the frame with `c` put there. -/
theorem withFrameCommand_self {bytes : List Byte} {c : Byte} (h : bytes[3]? = some c) :
    withFrameCommand bytes c = bytes := by
  obtain ⟨hlt, rfl⟩ := List.getElem?_eq_some_iff.1 h
  exact List.set_getElem_self hlt

theorem frameCommand_of_getElem? {bytes : List Byte} {c : Byte} (h : bytes[3]? = some c) :
    frameCommand bytes = c := by
  rw [frameCommand, frameByte, List.getD_eq_getElem?_getD, h, Option.getD_some]

/-- Settles O6: the frame is unchanged and DEC's dispatch is the meaning of the decoded command. -/
theorem candidateCloseRunsTheFramesCommandByte : Obligations.CandidateCloseRunsTheFramesCommandByte := by
  intro s c hc
  obtain ⟨-, hencode⟩ := encode_decodeCommand c
  have hmeaning : commandMeaning (decodeCommand c) s.chkBuf = commandWord s.chkBuf := by
    rw [commandWord_eq_commandMeaning, frameCommand_of_getElem? hc]
  rw [decode, exec_command s hencode, closeWithCommand, withFrameCommand_self hc, decodeWith_congr hmeaning]
  rfl

/-! The staged frame (log entry 9): its command byte, its length and its checksum. -/

theorem commandFrame_getElem? (c : Byte) : (commandFrame c)[3]? = some c := by
  unfold commandFrame
  split <;> rfl

theorem commandFrame_length (c : Byte) : (commandFrame c).length = 6 := by
  unfold commandFrame
  split <;> rfl

theorem commandFrame_checksumOk (c : Byte) : checksumOk (commandFrame c) = true := by
  have hcmd := frameCommand_of_getElem? (commandFrame_getElem? c)
  have hsum : c + 0x0C#8 = BitVec.ofNat 8 (c.toNat + 0x0C) := by
    rw [BitVec.ofNat_add, BitVec.ofNat_toNat, BitVec.setWidth_eq]
  rw [checksumOk_eq_true, checksumOf, frameLen, hcmd, commandFrame]
  split <;> simpa [frameByte, Config.csumAdd] using hsum

/-- The staged frame passes both checks, so its STATUS is the command's (30_encoding.md R72). -/
theorem statusField_commandFrame (c : Byte) :
    statusField (decodeFrame (commandFrame c))
      = if cmdNibble c = 0x6#4 ∨ cmdNibble c = 0xC#4 then 0b000#3 else 0b011#3 := by
  have hlen := commandFrame_length c
  have hsum := commandFrame_checksumOk c
  have hcases := statusField_decodeFrame_cases (commandFrame c)
  rw [frameCommand_of_getElem? (commandFrame_getElem? c)] at hcases
  rcases hcases with ⟨hshort, -⟩ | ⟨-, hbad, -⟩ | ⟨-, -, hk, hst⟩ | ⟨-, -, hk, hst⟩
  · omega
  · exact absurd (hbad.symm.trans hsum) (by decide)
  · rw [hst, if_neg hk]
  · rw [hst, if_pos hk]

/-- The staged candidate when its END has been fetched, the host's own operations waiting again. -/
def stagedCandidate (s : State) (c : Byte) : State := { stageCommand s c with input := s.input }

/-- The step of a staged command is the END that closes its candidate (44_packet_control.md R164). -/
theorem step_stageCommand (s : State) (c : Byte) :
    step (stageCommand s c) = .next (pktInit (emit (closeCandidate (stagedCandidate s c)) .eop)) := by
  rw [step, fetch_of_input (stageCommand_input s c)]
  exact exec_of_effect (.ended rfl)

/-- The staged candidate is retained, so its close appends the record of its frame (44_packet_control.md R161). -/
theorem closeCandidate_stagedCandidate_out (s : State) (c : Byte) :
    (closeCandidate (stagedCandidate s c)).out
      = s.out ++ [.cand ((commandFrame c).flatMap chunkBitsOf) (commandFrame c) (decodeFrame (commandFrame c))] := by
  have hret : retained (stagedCandidate s c) = true := (retained_eq_true _).2 (Nat.lt_succ_self _)
  rw [closeCandidate_out, if_pos hret]
  rfl

/-- Settles O7: the staged frame carries `c`, so the close that END makes is the execution of `c`. -/
theorem stagedCommandByteIsExecutedByTheNextStep : Obligations.StagedCommandByteIsExecutedByTheNextStep := by
  intro s c
  have hexec := candidateCloseRunsTheFramesCommandByte (stagedCandidate s c) c (commandFrame_getElem? c)
  exact ⟨closeCandidate (stagedCandidate s c), decodeFrame (commandFrame c), hexec, step_stageCommand s c,
    closeCandidate_stagedCandidate_out s c, statusField_commandFrame c⟩

end Sys2Proof.Machine

/-! ## Candidate close, END and the refusals of packet control (44_packet_control.md R160 to R166) -/

namespace Sys2Proof.Machine

/-- Settles O39: a retained candidate's record is emitted before the registers are cleared, and without one `OUT`
is as it was. -/
theorem candidateCloseFollowsItsRule : Obligations.CandidateCloseFollowsItsRule := by
  intro s
  rw [closeCandidate]
  rcases closeWith_cases s s.chkBuf (decodeFrame s.chkBuf) with ⟨hret, heq⟩ | ⟨hdrop, heq⟩ <;> rw [heq]
  · rw [if_pos hret]; rfl
  · rw [if_neg hdrop.not_gt, List.append_nil]; rfl

/-- Settles O40: candidate close, then `EOP` and packet initialisation. -/
theorem endClosesAppendsEopAndReturnsToS0 : Obligations.EndClosesAppendsEopAndReturnsToS0 := by
  intro s hready
  rw [exec_of_effect (.ended hready), candidateCloseFollowsItsRule s]
  rfl

/-- Settles O19: for either sample the refusal is due, and a due refusal only adds its reason. -/
theorem sampleBeyondCapacityIsRefused : Obligations.SampleBeyondCapacityIsRefused := by
  intro s hready hfull
  have hdue (x : Bool) : refusalDue (sampleInstr x) s = some .sampleBeyondCapacity := by
    cases x <;> simp [sampleInstr, refusalDue, hready, hfull]
  exact ⟨exec_of_refusalDue (hdue false), exec_of_refusalDue (hdue true)⟩

/-- Settles O42: the refusal is due, and a due refusal only adds its reason. -/
theorem reservedWordIsRefusedWithoutEffect : Obligations.ReservedWordIsRefusedWithoutEffect := by
  intro s hready
  exact exec_of_refusalDue (i := .reservedOp) (if_pos hready)

end Sys2Proof.Machine

/-! ## A packet appends the records of the batch pipeline (44_packet_control.md R168, R170)

While a packet runs, the registers stand for the bits `x` of the current candidate received so far. What the rest
of the packet appends is the batch description of those bits followed by the symbols still to come. -/

namespace Sys2Proof.Machine

/-! The SYN and CHK registers over the bits of a candidate. -/

/-- The SYN and CHK registers, all that `syn_step` reads and writes (10_state.md R26 to R30). -/
def synRegs (s : State) : Nat × Bool × List Bool × Chunk × Nat × Bool × List Byte :=
  (s.synZc, s.synLocked, s.synBuf, chkRegs s)

theorem synRegs_eq_iff (s t : State) :
    synRegs s = synRegs t ↔
      s.synZc = t.synZc ∧ s.synLocked = t.synLocked ∧ s.synBuf = t.synBuf ∧ chkRegs s = chkRegs t := by
  simp only [synRegs, Prod.mk.injEq]

/-- `syn_step` reads the SYN and CHK registers only (41_synchronizer.md R120). -/
theorem synRegs_synStep {s t : State} (h : synRegs s = synRegs t) (b : Bool) :
    synRegs (synStep s b) = synRegs (synStep t b) := by
  obtain ⟨hzc, hlocked, hbuf, hchk⟩ := (synRegs_eq_iff s t).1 h
  rcases synStep_cases s b with ⟨hl, heq⟩ | ⟨hl, rfl, heq⟩ | ⟨hl, rfl, hz, heq⟩ | ⟨hl, rfl, hz, heq⟩ <;>
    rw [heq] <;> rw [hlocked] at hl
  · have hpassed : chkRegs { s with synBuf := s.synBuf ++ [b] } = chkRegs { t with synBuf := t.synBuf ++ [b] } := hchk
    rw [synStep_locked hl, synRegs_eq_iff]
    simpa [hzc, hlocked, hbuf] using chkRegs_chkStep hpassed b
  · rw [synStep_zero hl, synRegs_eq_iff]
    exact ⟨by rw [hzc], hlocked, hbuf, hchk⟩
  · rw [synStep_marker hl (hzc ▸ hz), synRegs_eq_iff]
    exact ⟨rfl, rfl, hbuf, hchk⟩
  · rw [synStep_isolatedOne hl (hzc ▸ hz), synRegs_eq_iff]
    exact ⟨rfl, hlocked, hbuf, hchk⟩

/-- Where the SYN and CHK registers are those of a run of `syn_step` over `x` from their reset values, the buffers
are the batch Sync and Chunk (41_synchronizer.md R125, 42_chunker.md R134). -/
theorem buffers_of_synRegs {s : State} {x : List Bool} (h : synRegs s = synRegs (x.foldl synStep State.reset)) :
    s.synBuf = syncOf x ∧ s.chkBuf = chunkOf (syncOf x) := by
  obtain ⟨-, -, hbuf, hchk⟩ := (synRegs_eq_iff _ _).1 h
  have hsync : s.synBuf = syncOf x := hbuf.trans (synOverACandidateIsTheBatchSync State.reset x).1
  have hrun : chkAgrees (x.foldl synStep State.reset) :=
    x.foldlRecOn synStep (chkAgrees_clearCandidate State.reset) fun _ hagrees b _ => synStep_keeps_chkAgrees hagrees b
  exact ⟨hsync, hsync ▸ chunkOf_synBuf (chkAgrees_congr hrun hbuf hchk)⟩

/-! The current candidate, and what a symbol does to it. -/

/-- After RESET, at the default thresholds and in a reachable classifier pair, the candidate registers have
received exactly the bits `x` since the packet or the candidate began. -/
structure Receiving (s : State) (x : List Bool) : Prop where
  ready : s.ready = true
  thresholds : s.cfg.atDefaults
  pair : (s.clsOn, s.clsOff) ∈ reachablePairs s.cfg.clsCheck
  count : s.candLen = min x.length (s.cfg.minSymbols + 1)
  regs : synRegs s = synRegs (x.foldl synStep State.reset)

theorem receiving_of_isS0 {s : State} (h : s.isS0) (hready : s.ready = true) (hp : s.cfg.atDefaults) :
    Receiving s [] := by
  obtain ⟨hon, hoff, hlen, hzc, hlocked, hbuf, hsr, hcnt, hstop, hbytes, -⟩ := h
  exact {
    ready := hready
    thresholds := hp
    pair := by rw [hon, hoff]; exact idle_reachable _
    count := by rw [hlen]; exact (Nat.zero_min _).symm
    regs := by simp only [synRegs, chkRegs, hzc, hlocked, hbuf, hsr, hcnt, hstop, hbytes]; rfl }

theorem Receiving.countSample {s : State} {x : List Bool} (h : Receiving s x) {on off : Nat}
    (hpair : (on, off) ∈ reachablePairs s.cfg.clsCheck) : Receiving (countSample s on off) x :=
  { h with pair := hpair }

/-- The bits of the current candidate after a symbol: a Break begins the next candidate
(40_classifier.md R110, R111). -/
def receivedBits (x : List Bool) : Option Symbol → List Bool
  | none => x
  | some (.bit b) => x ++ [b]
  | some .brk => []

theorem Receiving.symbolIn {s : State} {x : List Bool} (h : Receiving s x) (b : Bool) :
    Receiving (symbolIn s b) (x ++ [b]) where
  ready := by rw [symbolIn_ready, h.ready]
  thresholds := by rw [symbolIn_cfg]; exact h.thresholds
  pair := by rw [symbolIn_clsOn, symbolIn_clsOff, symbolIn_cfg]; exact h.pair
  count := by
    rw [symbolIn_candLen, symbolIn_cfg, h.count, List.length_append, List.length_singleton]
    omega
  regs := by
    rw [List.foldl_concat]
    exact synRegs_synStep (s := { s with candLen := min (s.candLen + 1) (s.cfg.minSymbols + 1) }) h.regs b

theorem Receiving.closeCandidate {s : State} {x : List Bool} (h : Receiving s x) :
    Receiving (closeCandidate s) [] where
  ready := by rw [closeCandidate_ready, h.ready]
  thresholds := by rw [closeCandidate_cfg]; exact h.thresholds
  pair := by rw [closeCandidate_clsOn, closeCandidate_clsOff, closeCandidate_cfg]; exact h.pair
  count := by rw [closeCandidate_candLen]; exact (Nat.zero_min _).symm
  regs := by rw [candidateCloseFollowsItsRule s]; rfl

theorem Receiving.routeSymbol {s : State} {x : List Bool} (h : Receiving s x) (y : Option Symbol) :
    Receiving (routeSymbol s y) (receivedBits x y) := by
  match y with
  | none => exact h
  | some (.bit b) => exact h.symbolIn b
  | some .brk => exact h.closeCandidate

/-! The records: those of candidate close are the batch description's, piece by piece. -/

/-- The `CAND` records of the retained ones among some pieces (44_packet_control.md R161, R170). -/
def candRecords (p : Params) (pieces : List (List Bool)) : List OutRecord :=
  (pieces.filter fun x => decide (p.minSymbols < x.length)).map candRecord

theorem packetRecords_eq (p : Params) (w : List Bool) :
    packetRecords p w = candRecords p (splitAtBreak (clsRun p 0 0 w)) ++ [.eop] := rfl

theorem candRecords_singleton (p : Params) (x : List Bool) :
    candRecords p [x] = if p.minSymbols < x.length then [candRecord x] else [] := by
  rw [candRecords, List.filter_singleton]
  split_ifs with hlong
  · rw [decide_eq_true hlong]; rfl
  · rw [decide_eq_false hlong]; rfl

theorem candRecords_cons (p : Params) (x : List Bool) (pieces : List (List Bool)) :
    candRecords p (x :: pieces) = candRecords p [x] ++ candRecords p pieces := by
  rw [candRecords, ← List.singleton_append, List.filter_append, List.map_append]
  rfl

/-- A Break ends the piece in progress (40_classifier.md R114). -/
theorem splitAtBreak_bits_brk (x : List Bool) (ys : List Symbol) :
    splitAtBreak (x.map .bit ++ .brk :: ys) = x :: splitAtBreak ys := by
  induction x with
  | nil => rfl
  | cons b x ih => rw [List.map_cons, List.cons_append, splitAtBreak, ih, pushSymbol]

/-- The record of the current candidate (44_packet_control.md R161, R170). -/
theorem Receiving.closeRecords_eq {s : State} {x : List Bool} (h : Receiving s x) :
    closeRecords s s.chkBuf (decodeFrame s.chkBuf) = candRecords s.cfg [x] := by
  obtain ⟨hsync, hchunk⟩ := buffers_of_synRegs h.regs
  have hret : retained s = true ↔ s.cfg.minSymbols < x.length := by
    rw [retained_eq_true, h.count]
    omega
  simp only [closeRecords, candRecords_singleton, hret, hsync, hchunk, candRecord]

/-- What a symbol appends now, with what the bits received after it lead to, is what the bits received before it
and the symbol lead to. -/
theorem Receiving.routeRecords_append {s : State} {x : List Bool} (h : Receiving s x) (y : Option Symbol)
    (ys : List Symbol) :
    routeRecords s y ++ candRecords s.cfg (splitAtBreak ((receivedBits x y).map .bit ++ ys))
      = candRecords s.cfg (splitAtBreak (x.map .bit ++ (y.toList ++ ys))) := by
  match y with
  | none => rfl
  | some (.bit b) =>
    rw [receivedBits, List.map_append, List.append_assoc]
    rfl
  | some .brk =>
    rw [routeRecords, h.closeRecords_eq, receivedBits, Option.toList_some, List.singleton_append,
      splitAtBreak_bits_brk, candRecords_cons s.cfg x (splitAtBreak ys)]
    rfl

theorem routeSymbol_out (s : State) (y : Option Symbol) : (routeSymbol s y).out = s.out ++ routeRecords s y :=
  congrArg State.out (routeSymbol_withOutside s s.out s.refused s.input y)

/-! A packet: its samples, then END. -/

/-- The packet-initial state with records appended to `OUT`: how a packet from `s` ends (44_packet_control.md
R164, R165). -/
def packetEnd (s : State) (records : List OutRecord) : State := { pktInit s with out := s.out ++ records }

/-- A sample does not show in how the packet ends, but for the record that its Break appends. -/
theorem packetEnd_sample (s : State) (on off : Nat) (y : Option Symbol) (records : List OutRecord) :
    packetEnd (routeSymbol (countSample s on off) y) records
      = packetEnd s (routeRecords (countSample s on off) y ++ records) := by
  simp [packetEnd, pktInit, clearCandidate, routeSymbol_out, countSample]

/-- END appends the record of the last candidate and `EOP` (44_packet_control.md R164). -/
theorem Receiving.runOps_end {s : State} {x : List Bool} (h : Receiving s x) :
    runOps [endOp] s = .next (packetEnd s (candRecords s.cfg [x] ++ [.eop])) := by
  have hend : pktInit (emit (Machine.closeCandidate s) .eop)
      = packetEnd s (closeRecords s s.chkBuf (decodeFrame s.chkBuf) ++ [.eop]) := by
    simp [packetEnd, pktInit, clearCandidate, closeRecords]
  have hexec : exec (decodeHost endOp) s = .next (pktInit (emit (Machine.closeCandidate s) .eop)) :=
    exec_of_effect (.ended h.ready)
  rw [runOps, hexec, hend, h.closeRecords_eq]
  rfl

/-- From the middle of a packet, `x` being the bits of the current candidate: the samples `w` still to come and END
append the batch description's records of `x` and the symbols of `w`. -/
theorem Receiving.runOps_packet (w : List Bool) {s : State} {x : List Bool} (h : Receiving s x)
    (hcap : s.pktN + w.length ≤ s.cfg.sampleCap) :
    runOps (samples w ++ [endOp]) s = .next (packetEnd s
      (candRecords s.cfg (splitAtBreak (x.map .bit ++ clsRun s.cfg s.clsOn s.clsOff w)) ++ [.eop])) := by
  induction w generalizing s x with
  | nil =>
    rw [clsRun, List.append_nil, splitAtBreak_bits]
    exact h.runOps_end
  | cons v w ih =>
    obtain ⟨⟨on, off, y⟩, hstep, hpair, -⟩ := clsStep_of_reachable h.thresholds h.pair v
    have hcap' : s.pktN + 1 + w.length ≤ s.cfg.sampleCap := by rw [List.length_cons] at hcap; omega
    have hcounted := h.countSample hpair
    have hrun : runOps (samples (v :: w) ++ [endOp]) s
        = runOps (samples w ++ [endOp]) (Machine.routeSymbol (Machine.countSample s on off) y) :=
      runOps_append (ops₁ := samples [v]) (runOps_samples_cons [] ⟨h.ready, by omega⟩ hstep)
    have hrest := ih (hcounted.routeSymbol y) (by rw [routeSymbol_pktN, routeSymbol_cfg]; exact hcap')
    rw [routeSymbol_clsOn, routeSymbol_clsOff, routeSymbol_cfg, packetEnd_sample, ← List.append_assoc,
      hcounted.routeRecords_append] at hrest
    rw [hrun, clsRun_cons w hstep]
    exact hrest

theorem packetEnd_of_isS0 {s : State} (h : s.isS0) (records : List OutRecord) :
    packetEnd s records = { s with out := s.out ++ records } := by
  obtain ⟨hon, hoff, hlen, hzc, hlocked, hbuf, hsr, hcnt, hstop, hbytes, hn⟩ := h
  cases s
  subst hon hoff hlen hzc hlocked hbuf hsr hcnt hstop hbytes hn
  rfl

/-- Settles O56: in `S0` no bit of a candidate has been received. -/
theorem packetAppendsTheBatchPipelinesRecords : Obligations.PacketAppendsTheBatchPipelinesRecords := by
  intro s w hS0 hready hp hcap
  have ⟨hon, hoff, _, _, _, _, _, _, _, _, hn⟩ := hS0
  have hsymbols : clsRun s.cfg s.clsOn s.clsOff w = clsRun s.cfg 0 0 w := by rw [hon, hoff]
  have hrun := (receiving_of_isS0 hS0 hready hp).runOps_packet w (by rw [hn, Nat.zero_add]; exact hcap)
  rwa [List.map_nil, List.nil_append, hsymbols, packetEnd_of_isS0 hS0] at hrun

/-- Off samples while idle emit nothing, in either reading (40_classifier.md R102). -/
theorem clsRun_idleShape {p : Params} (hp : p.atDefaults) (k : Nat) :
    ∀ {off : Nat}, (0, off) ∈ reachablePairs p.clsCheck → clsRun p 0 off (idleShape k) = [] := by
  induction k with
  | zero => exact fun _ => rfl
  | succ k ih =>
    intro off h
    obtain ⟨r, hstep, hnext, -⟩ := clsStep_of_reachable hp h false
    obtain ⟨-, ⟨hx, -⟩ | ⟨-, hr⟩⟩ := clsStep_eq_some hstep
    · cases hx
    · obtain rfl := hr.trans (clsOffSample_idle rfl)
      rw [idleShape, List.replicate_succ, clsRun_cons _ hstep]
      exact ih hnext

/-- Without an on sample the only piece is empty, and no empty piece is retained (44_packet_control.md R168). -/
theorem packetRecords_idleShape {p : Params} (hp : p.atDefaults) (k : Nat) :
    packetRecords p (idleShape k) = [.eop] := by
  rw [packetRecords_eq, clsRun_idleShape hp k (idle_reachable p.clsCheck), splitAtBreak, candRecords_singleton,
    List.length_nil, if_neg (Nat.not_lt_zero _), List.nil_append]

/-- Settles O41: the packet of `k` off samples has no record but `EOP`. -/
theorem emptyAndSilentPacketsAppendOnlyEop : Obligations.EmptyAndSilentPacketsAppendOnlyEop := by
  intro s k hS0 hready hp hk
  rw [packetAppendsTheBatchPipelinesRecords s (idleShape k) hS0 hready hp (List.length_replicate.trans_le hk),
    packetRecords_idleShape hp]

end Sys2Proof.Machine

/-! ## What a step appends, and which steps stop (60_exceptions.md R200, R207) -/

namespace Sys2Proof.Machine

/-! Only END appends `EOP`; every other step appends at most the record of the candidate it closes
(44_packet_control.md R160, R164). -/

/-- A stretch of `OUT` with at most one `CAND` record and no `EOP`. -/
def atMostOneCand (added : List OutRecord) : Prop := countCand added ≤ 1 ∧ countEop added = 0

theorem atMostOneCand_nil : atMostOneCand [] := ⟨Nat.zero_le 1, rfl⟩

theorem atMostOneCand_closeRecords (s : State) (bytes : List Byte) (w : ResultWord) :
    atMostOneCand (closeRecords s bytes w) := by
  unfold closeRecords
  split
  · exact ⟨Nat.le_refl 1, rfl⟩
  · exact atMostOneCand_nil

theorem atMostOneCand_routeRecords (s : State) (y : Option Symbol) : atMostOneCand (routeRecords s y) := by
  match y with
  | none | some (.bit _) => exact atMostOneCand_nil
  | some .brk => exact atMostOneCand_closeRecords ..

theorem countCand_append (l r : List OutRecord) : countCand (l ++ r) = countCand l + countCand r := by
  induction l with
  | nil => exact (Nat.zero_add _).symm
  | cons record l ih =>
    cases record with
    | cand => rw [List.cons_append, countCand, countCand, ih, Nat.add_right_comm]
    | eop => exact ih

theorem countEop_append (l r : List OutRecord) : countEop (l ++ r) = countEop l + countEop r := by
  induction l with
  | nil => exact (Nat.zero_add _).symm
  | cons record l ih =>
    cases record with
    | cand => exact ih
    | eop => rw [List.cons_append, countEop, countEop, ih, Nat.add_right_comm]

/-- `EOP` behind the record of the last candidate (44_packet_control.md R164). -/
theorem atMostOneCand.append_eop {added : List OutRecord} (h : atMostOneCand added) :
    countCand (added ++ [.eop]) ≤ 1 ∧ countEop (added ++ [.eop]) = 1 ∧
      (added ++ [OutRecord.eop]).getLast? = some .eop := by
  obtain ⟨hcand, heop⟩ := h
  rw [countCand_append, countEop_append, heop]
  exact ⟨hcand, rfl, List.getLast?_concat⟩

/-- An END after a RESET appends its candidate's record and then `EOP`; any other effect at most a `CAND` record. -/
theorem Effect.out_eq_append {i : Instr} {s t : State} (h : Effect s i t) :
    ∃ added, atMostOneCand added ∧ t.out = s.out ++ (added ++
      if i = .endPacket ∧ s.ready = true then [.eop] else []) := by
  cases h with
  | refused due =>
    have hnot : ¬ (i = .endPacket ∧ s.ready = true) := by
      rintro ⟨rfl, hready⟩
      simp [refusalDue, hready] at due
    exact ⟨[], atMostOneCand_nil, by simp [hnot]⟩
  | @sampled x on off sym =>
    have hnot : sampleInstr x ≠ .endPacket := by cases x <;> nofun
    exact ⟨_, atMostOneCand_routeRecords (countSample s on off) sym, by simp [hnot, routeSymbol_out, countSample]⟩
  | ended ready =>
    exact ⟨_, atMostOneCand_closeRecords s s.chkBuf (decodeFrame s.chkBuf), by simp [ready, closeRecords]⟩
  | reset => exact ⟨[], atMostOneCand_nil, by simp⟩
  | @closed _ c byte =>
    have hnot : i ≠ .endPacket := by rintro rfl; cases byte
    exact ⟨_, atMostOneCand_closeRecords s (withFrameCommand s.chkBuf c) (decodeWith (commandMeaning i)
      (withFrameCommand s.chkBuf c)), by simp [hnot, closeWithCommand, closeRecords]⟩

/-- Settles O47: what an effect appends, with or without the `EOP` of END. -/
theorem aStepAppendsAtMostOneCandAndEopOnlyForEnd : Obligations.AStepAppendsAtMostOneCandAndEopOnlyForEnd := by
  intro i s t h
  obtain ⟨added, hadded, hout⟩ := (effect_of_exec h).out_eq_append
  refine ⟨_, hout, ?_⟩
  split
  · exact hadded.append_eop
  · rwa [List.append_nil]

/-! A SAMPLE in a pair without meaning is the one stop, and no state with `Inv` has such a pair
(10_state.md R24, R39). -/

/-- An accepted SAMPLE in a pair the spec gives no meaning faults (log entry 6). -/
theorem exec_sample_of_not_clsLegal {s : State} (x : Bool) (haccepts : s.accepts) (hpair : ¬ s.clsLegal) :
    exec (sampleInstr x) s = .fault .clsPairWithoutMeaning := by
  obtain ⟨hready, hcap⟩ := haccepts
  have hnone : clsStep s.cfg s.clsOn s.clsOff x = none := if_neg hpair
  rw [exec_sampleInstr, whenReady, if_pos hready, sampleIn, if_pos ((withinCapacity_eq_true s).2 hcap),
    classifySample, hnone]

/-- A SAMPLE that is not accepted has a refusal due (70_reset_and_hazards.md R221, 44_packet_control.md R163). -/
theorem refusalDue_sample_of_not_accepts {s : State} (x : Bool) (h : ¬ s.accepts) :
    ∃ reason, refusalDue (sampleInstr x) s = some reason := by
  by_cases hready : s.ready = true
  · have hfull : s.cfg.sampleCap ≤ s.pktN := Nat.not_lt.1 fun hcap => h ⟨hready, hcap⟩
    exact ⟨.sampleBeyondCapacity, by cases x <;> simp [sampleInstr, refusalDue, hready, hfull]⟩
  · exact ⟨.notReset, by cases x <;> simp [sampleInstr, refusalDue, hready]⟩

/-- A SAMPLE is refused, classified, or stopped by its pair. -/
theorem exec_sample_cases (s : State) (x : Bool) :
    (∃ t, exec (sampleInstr x) s = .next t) ∨
      (exec (sampleInstr x) s = .fault .clsPairWithoutMeaning ∧ s.accepts ∧ ¬ s.clsLegal) := by
  by_cases haccepts : s.accepts
  · by_cases hpair : s.clsLegal
    · rw [exec_sampleInstr, whenReady, if_pos haccepts.1]
      exact .inl (sampleIn_total s x hpair)
    · exact .inr ⟨exec_sample_of_not_clsLegal x haccepts hpair, haccepts, hpair⟩
  · obtain ⟨reason, hdue⟩ := refusalDue_sample_of_not_accepts x haccepts
    exact .inl ⟨_, exec_of_refusalDue hdue⟩

/-- Every outcome of an instruction: a next state, or the fault of a SAMPLE. -/
theorem exec_cases (i : Instr) (s : State) :
    (∃ t, exec i s = .next t) ∨
      (exec i s = .fault .clsPairWithoutMeaning ∧ (∃ x, i = sampleInstr x) ∧ s.accepts ∧ ¬ s.clsLegal) := by
  by_cases hsample : ∃ x, i = sampleInstr x
  · obtain ⟨x, rfl⟩ := hsample
    exact (exec_sample_cases s x).imp_right fun ⟨hfault, hpair⟩ => ⟨hfault, ⟨x, rfl⟩, hpair⟩
  · exact .inl (exec_total_of_no_sample i s (fun h => hsample ⟨false, h⟩) fun h => hsample ⟨true, h⟩)

/-- Settles O49: neither outcome of `exec_cases` is `.refused`, and its fault is that of a SAMPLE. -/
theorem execFaultsOnlyInAMeaninglessPair : Obligations.ExecFaultsOnlyInAMeaninglessPair := by
  intro i s
  rcases exec_cases i s with ⟨t, hnext⟩ | ⟨hfault, ⟨x, rfl⟩, hpair⟩
  · rw [hnext]
    exact ⟨nofun, nofun⟩
  · rw [hfault]
    exact ⟨nofun, fun _ _ => ⟨by cases x <;> simp [sampleInstr], hpair⟩⟩

/-- The pairs of the invariant have a meaning (10_state.md R39 (f)). -/
theorem Inv.clsLegal {s : State} (h : Inv s) (hready : s.ready = true) : s.clsLegal := by
  obtain ⟨_, hstep, -⟩ := clsStep_of_reachable h.thresholds (h.regs hready).clsPair false
  exact (clsStep_eq_some hstep).1

theorem Inv.exists_exec {s : State} (h : Inv s) (i : Instr) : ∃ t, exec i s = .next t ∧ Inv t := by
  rcases exec_cases i s with ⟨t, hnext⟩ | ⟨-, -, haccepts, hpair⟩
  · exact ⟨t, hnext, (effect_of_exec hnext).keeps_inv h⟩
  · exact absurd (h.clsLegal haccepts.1) hpair

theorem Inv.exists_step {s : State} (h : Inv s) : ∃ t, step s = .next t := by
  unfold step
  rcases fetch_cases s with ⟨-, hf⟩ | ⟨o, rest, -, hf⟩ <;> rw [hf]
  · exact ⟨s, rfl⟩
  · have hfetched : Inv { s with input := rest } := h.of_sameBlock rfl
    obtain ⟨t, hnext, -⟩ := hfetched.exists_exec (decodeHost o)
    exact ⟨t, hnext⟩

theorem Inv.exists_runOps (ops : List HostOp) {s : State} (h : Inv s) : ∃ t, runOps ops s = .next t ∧ Inv t := by
  induction ops generalizing s with
  | nil => exact ⟨s, rfl, h⟩
  | cons o rest ih =>
    obtain ⟨t, hnext, hinv⟩ := h.exists_exec (decodeHost o)
    rw [runOps, hnext]
    exact ih hinv

/-- Settles O52: no instruction stops in a state with `Inv`, and each keeps it. -/
theorem noStepOfTheInvariantStops : Obligations.NoStepOfTheInvariantStops := by
  intro s h
  exact ⟨h.exists_step, fun ops => h.exists_runOps ops⟩

end Sys2Proof.Machine

/-! ## RESET, power-on and the refused mark (70_reset_and_hazards.md R220, R221, R230)

A refusal is the only change of the mark, so a host that gives no cause for one is never refused. -/

namespace Sys2Proof.Machine

/-- Before any RESET each input operation is refused with `NotReset` (70_reset_and_hazards.md R221, log entry 5). -/
theorem exec_powerOn_of_mem {i : Instr} (s : State)
    (h : i ∈ [Instr.sampleOff, Instr.sampleOn, Instr.endPacket, Instr.reservedOp]) :
    exec i (powerOn s) = .next { powerOn s with refused := s.refused ++ [.notReset] } := by
  refine exec_of_refusalDue ?_
  simp only [List.mem_cons, List.not_mem_nil, or_false] at h
  rcases h with rfl | rfl | rfl | rfl <;> rfl

/-- Settles O20: the three are among the operations that power-on refuses, and RESET is packet initialisation. -/
theorem operationsBeforeResetAreRefused : Obligations.OperationsBeforeResetAreRefused := by
  intro s
  constructor
  · intro i hi
    exact exec_powerOn_of_mem s (List.mem_append_left [Instr.reservedOp] hi)
  · exact ⟨_, exec_of_effect .reset, pktInit_isS0 (powerOn s), rfl⟩

/-- Settles O43: the reserved word too is among the operations that power-on refuses. -/
theorem reservedWordBeforeResetIsRefusedNotReset : Obligations.ReservedWordBeforeResetIsRefusedNotReset := by
  intro s
  exact exec_powerOn_of_mem s (by simp)

/-- Settles O44: RESET is packet initialisation, with the power-on condition ended. -/
theorem resetEstablishesS0AndKeepsTheOutput : Obligations.ResetEstablishesS0AndKeepsTheOutput := by
  intro s
  exact exec_of_effect (s := s) .reset

/-- A RESET once applied stays applied (70_reset_and_hazards.md R221). -/
theorem Effect.ready_of_ready {i : Instr} {s t : State} (h : Effect s i t) (hready : s.ready = true) :
    t.ready = true := by
  cases h with
  | refused => exact hready
  | sampled => rwa [routeSymbol_ready]
  | ended => rwa [pktInit_ready, emit_ready, closeCandidate_ready]
  | reset => rfl
  | closed => rwa [closeWithCommand, closeWith_ready]

/-- Only a refusal touches the mark (70_reset_and_hazards.md R230). -/
theorem Effect.refused_eq {i : Instr} {s t : State} (h : Effect s i t) (hnone : refusalDue i s = none) :
    t.refused = s.refused := by
  cases h with
  | refused due => cases hnone.symm.trans due
  | sampled => exact routeSymbol_refused ..
  | ended => rw [pktInit_refused, emit_refused, closeCandidate_refused]
  | reset => exact pktInit_refused s
  | closed => exact closeWith_refused ..

/-- Settles O46: each part is read off what an effect can do. -/
theorem markParametersAndInputAreKept : Obligations.MarkParametersAndInputAreKept := by
  intro i s t h
  have heff := effect_of_exec h
  obtain ⟨-, hmark, hinput⟩ := heff.appends
  exact ⟨hmark, heff.cfg_eq, hinput, heff.ready_of_ready⟩

/-- Settles O59: a due refusal is what happens, and no other effect touches the mark. -/
theorem refusalsAreExactlyTheListedOnes : Obligations.RefusalsAreExactlyTheListedOnes := by
  intro i s
  exact ⟨fun _ hdue => exec_of_refusalDue hdue, fun hnone _ h => (effect_of_exec h).refused_eq hnone⟩

/-! The host's duties (70_reset_and_hazards.md R226, R228) are that no operation has a refusal due. -/

/-- The samples of the packet in progress after an operation that is not refused: a SAMPLE counts, and END and
RESET begin a packet (44_packet_control.md R162, R165). -/
def samplesAfter (n : Nat) : Instr → Nat
  | .sampleOff | .sampleOn => n + 1
  | .endPacket | .reset => 0
  | _ => n

theorem Effect.pktN_eq {i : Instr} {s t : State} (h : Effect s i t) (hnone : refusalDue i s = none) :
    t.pktN = samplesAfter s.pktN i := by
  cases h with
  | refused due => cases hnone.symm.trans due
  | @sampled x => rw [routeSymbol_pktN]; cases x <;> rfl
  | ended => rfl
  | reset => rfl
  | closed byte =>
    rw [closeWithCommand, closeWith_pktN]
    cases i with
    | openTo | sync | unknownCommand => rfl
    | sampleOff | sampleOn | endPacket | reservedOp | reset => cases byte

/-- After RESET a host that keeps its duties issues an operation with no refusal due, and goes on to keep them. -/
theorem keepsDuties_cons_iff {s : State} (hready : s.ready = true) (o : HostOp) (rest : List HostOp) :
    keepsDuties s.cfg.sampleCap s.pktN (o :: rest) = true ↔ refusalDue (decodeHost o) s = none ∧
      keepsDuties s.cfg.sampleCap (samplesAfter s.pktN (decodeHost o)) rest = true := by
  rw [keepsDuties]
  cases decodeHost o with
  | sampleOff | sampleOn => simp [refusalDue, samplesAfter, hready]
  | endPacket | reservedOp => simp [refusalDue, samplesAfter, hready]
  | reset | openTo | sync | unknownCommand => simp [refusalDue, samplesAfter]

/-- Settles O60, by induction on the operations: each has no refusal due, so it keeps the mark, and it leaves the
host's duties for the rest. -/
theorem aHostKeepingItsDutiesIsNeverRefused : Obligations.AHostKeepingItsDutiesIsNeverRefused := by
  intro s ops
  induction ops generalizing s with
  | nil => exact fun hinv hready _ => ⟨s, rfl, rfl, hinv, hready⟩
  | cons o rest ih =>
    intro hinv hready hduties
    obtain ⟨hnone, hrest⟩ := (keepsDuties_cons_iff hready o rest).1 hduties
    obtain ⟨u, hnext, huinv⟩ := hinv.exists_exec (decodeHost o)
    have heff := effect_of_exec hnext
    rw [← heff.pktN_eq hnone, ← heff.cfg_eq] at hrest
    obtain ⟨t, hrun, hmark, ht⟩ := ih u huinv (heff.ready_of_ready hready) hrest
    rw [runOps, hnext]
    exact ⟨t, hrun, hmark.trans (heff.refused_eq hnone), ht⟩

end Sys2Proof.Machine
